-- ==== Sys2Proof/Word.lean ====
section
/-! DEFINITION. The word types of AIT-CORE: the widths that spec/00_scope.md R8 and
spec/30_encoding.md R94 give to channels, fields, words, dimensions, lengths and counts. -/

namespace Sys2Proof

/-- An 8-bit unsigned channel or buffer byte (`CHAN_BITS`, R8; R80). -/
abbrev Byte := BitVec 8

/-- An operation code, `CMD.OP` (R32, R93). -/
abbrev Code := BitVec 8

/-- A packed Luma10, Chroma10 or Alpha10 field (`FIELD_BITS`, R8; R81). -/
abbrev Field10 := BitVec 10

/-- A PackedWord32 as a value (R81). -/
abbrev Word32 := BitVec 32

/-- A Word64 as the 64-bit integer of its 8 wire bytes (R55, R83). -/
abbrev Word64 := BitVec 64

/-- WIDTH and HEIGHT (`DIM_BITS` = 32, R8, R32). -/
abbrev Dim := BitVec 32

/-- A byte length, offset or cursor (`LEN_BITS` = 64, R8, R32). -/
abbrev Len := BitVec 64

/-- A run length or repeat count (`COUNT_BITS` = 64, R8, R26, R29). -/
abbrev Count := BitVec 64

end Sys2Proof
end

