-- ==== Sys2Proof/Machine/Bytes.lean ====
section
/-! DEFINITION. Byte order: every multi-byte quantity is big-endian (R13, R54). Operand bytes of an operation
are laid out in the same order (DESIGN CHOICE, log entry 5). -/

namespace Sys2Proof.Machine

/-- Byte `i` of a byte sequence; sequences are read only inside their length. -/
def byteAt (bytes : List Byte) (i : Nat) : Byte := bytes.getD i 0

/-- `BE32` (R13). -/
def be32Bytes (v : Word32) : List Byte :=
  [v.extractLsb' 24 8, v.extractLsb' 16 8, v.extractLsb' 8 8, v.extractLsb' 0 8]

/-- `BE64` (R13). -/
def be64Bytes (v : Word64) : List Byte :=
  [v.extractLsb' 56 8, v.extractLsb' 48 8, v.extractLsb' 40 8, v.extractLsb' 32 8,
   v.extractLsb' 24 8, v.extractLsb' 16 8, v.extractLsb' 8 8, v.extractLsb' 0 8]

/-- `be32` of the 4 bytes from index `i` (R13, R95). -/
def be32At (bytes : List Byte) (i : Nat) : Word32 :=
  byteAt bytes i ++ byteAt bytes (i + 1) ++ byteAt bytes (i + 2) ++ byteAt bytes (i + 3)

/-- `be64` of the 8 bytes from index `i` (R13, R95). -/
def be64At (bytes : List Byte) (i : Nat) : Word64 :=
  be32At bytes i ++ be32At bytes (i + 4)

/-- A 10-bit operand as two bytes, its upper six bits zero. -/
def be10Bytes (v : Field10) : List Byte :=
  [(v.extractLsb' 8 2).setWidth 8, v.extractLsb' 0 8]

/-- The 16 bits of the 2 bytes from index `i`. -/
def be16At (bytes : List Byte) (i : Nat) : BitVec 16 :=
  byteAt bytes i ++ byteAt bytes (i + 1)

end Sys2Proof.Machine
end

