-- ==== Sys2Proof/Config.lean ====
section
/-! DEFINITION. What spec/00_scope.md R8 leaves as parameters of the block: the number system of the
intermediate values (ARITH), the tie rule of rounding (ROUND_TIE), the deliveries of a run record of
length 1 (RUN1_DELIVERIES), and the shape of the coefficient file (spec/10_state.md R24). -/

namespace Sys2Proof

/-- The values of the converters' formulas: rational numbers (R10). Those of a finite-precision number system are
rationals too. -/
abbrev Q := Rat

/-- ARITH (R8, R10, R119; spec/92 D1; spec/93 U10): the number system of every intermediate value of the converters.
The spec's default is `exactRational`; the parameter is open. -/
inductive Arith where
  /-- every operation is exact: the spec's choice -/
  | exactRational
  /-- the number system of some implementation; the spec describes none (spec/93 G2), so what its operations give is
  free (log entry 2) -/
  | implementation (number : Nat)
deriving DecidableEq, Repr

/-- The four operations of the formulas (R10). -/
inductive ArithOp where
  | add
  | sub
  | mul
  | div
deriving DecidableEq, Repr

/-- The number by which an implementation stands for an exact one: a literal of D0 or an integer input. Free
(log entry 2). -/
opaque Config.implementationValue (number : Nat) (x : Q) : Q

/-- What an operation gives in the number system of an implementation. Free (log entry 2). -/
opaque Config.implementationResult (number : Nat) (op : ArithOp) (x y : Q) : Q

/-- The 10-bit result of an implementation whose truncated value does not fit 10 bits; the exact values always fit
(R138), and the spec has no step that saturates or masks (spec/93 U1). Free (log entry 2). -/
opaque Config.implementationField (number : Nat) (x : Q) : Field10

/-- ROUND_TIE (R8, R12, R166; spec/92 D2): where a value exactly halfway between two integers goes.
The spec's default is `halfUp`; the parameter is open. -/
inductive RoundTie where
  /-- to the larger neighbour, `floor (x + 1/2)`: the spec's choice -/
  | halfUp
  /-- to the smaller neighbour -/
  | halfDown
  /-- to the even neighbour -/
  | halfEven
deriving DecidableEq, Repr

/-- RUN1_DELIVERIES (R8, R226; spec/92 D11): how often a run record with `L = 1` delivers its value. -/
inductive Run1Deliveries where
  | once
  /-- the literal reading of D0, the spec's default -/
  | twice
deriving DecidableEq, Repr

/-- The parameters that R8 leaves OPEN and that change a result. -/
structure Config where
  arith          : Arith
  roundTie       : RoundTie
  run1Deliveries : Run1Deliveries
deriving DecidableEq, Repr

/-- The default value R8 shows for each open parameter. -/
def Config.standard : Config := { arith := .exactRational, roundTie := .halfUp, run1Deliveries := .twice }

/-- The read-only coefficient file of one profile (R24, R111 to R115). -/
structure Coefficients where
  kr           : Q
  kb           : Q
  kg           : Q
  lumaScale    : Q
  lumaOffset   : Q
  chromaScale  : Q
  chromaOffset : Q
  alphaScale   : Q
  alphaOffset  : Q
  /-- `Kr/(1-Kb)`, forward (R114) -/
  krOver1mKb   : Q
  /-- `Kg/(1-Kb)`, forward (R114) -/
  kgOver1mKb   : Q
  /-- `Kb/(1-Kr)`, forward (R114) -/
  kbOver1mKr   : Q
  /-- `Kg/(1-Kr)`, forward (R114) -/
  kgOver1mKr   : Q
  /-- `1-Kr`, inverse (R115) -/
  oneMinusKr   : Q
  /-- `1-Kb`, inverse (R115) -/
  oneMinusKb   : Q
  /-- `Kr(1-Kr)/Kg`, inverse (R115) -/
  crToG        : Q
  /-- `Kb(1-Kb)/Kg`, inverse (R115) -/
  cbToG        : Q
deriving DecidableEq, Repr

end Sys2Proof
end

