-- ==== Sys2Proof/Syntax.lean ====
section
/-! DEFINITION. The instructions of AIT-CORE: one constructor for each row of spec/opcode_table.json (the
23 operations of spec/30_encoding.md R93, the two stream records of R87 and the three data formats of
R80, R81, R83), and the forms in which their encodings reach the block. -/

namespace Sys2Proof

/-- One RGBA pixel, 4 bytes (R80). -/
structure Pixel where
  r : Byte
  g : Byte
  b : Byte
  a : Byte
deriving DecidableEq, Repr

/-- The 8 pixels `p0 .. p7` of one batch in buffer order, 32 bytes (R52, R137). -/
structure Batch where
  p0 : Pixel
  p1 : Pixel
  p2 : Pixel
  p3 : Pixel
  p4 : Pixel
  p5 : Pixel
  p6 : Pixel
  p7 : Pixel
deriving DecidableEq, Repr

/-- The rows of spec/opcode_table.json. -/
inductive Instr where
  -- operations, R93
  | profileSel (height : Dim)
  | fwdY (r g b : Byte)
  | fwdCb (r g b : Byte)
  | fwdCr (r g b : Byte)
  | fwdA (a : Byte)
  | pack (a c y : Field10)
  | fwdPair (pixel1 pixel2 : Pixel)
  | fwdBatch (pixels : Batch)
  | unpack (w : Word32)
  | invY (y : Field10)
  | invUv (uv : Field10)
  | invA (a : Field10)
  | invRgb (yFull cbFull crFull : Q)
  | invPair (w : Word64)
  | invBatch (w0 w1 w2 w3 : Word64)
  | rleInit
  | rlePush (word : Word64)
  | rleFlush
  | rleFinish
  | rldInit (length : Len)
  | rldRead
  | encode (width height : Dim) (inLen outCap : Len)
  | decode (width height : Dim) (inLen outCap : Len)
  -- records of the compressed stream, R87
  | lit (value : Word64)
  | run (length : Count) (value : Word64)
  -- data formats, R81, R83, R80
  | packedWord32 (alpha chroma luma : Field10)
  | word64 (word1 word2 : Word32)
  | pixel (p : Pixel)
deriving DecidableEq, Repr

/-- The three fixed data formats (R80, R81, R83). -/
inductive DataFormat where
  | packedWord32
  | word64
  | pixel
deriving DecidableEq, Repr

/-- What the host presents to the block in one transaction (spec/92 D3): an operation, as its code byte
and its operand bytes, or one datum in a data format. -/
inductive Request where
  | operation (bytes : List Byte)
  | datum (format : DataFormat) (bytes : List Byte)
deriving DecidableEq, Repr

/-- Where the encoding of an instruction stands: in a request of the host, or in the compressed stream. -/
inductive Encoded where
  | request (r : Request)
  | record (bytes : List Byte)
deriving DecidableEq, Repr

/-- Why some bytes are no instruction. -/
inductive DecodeError where
  /-- a request without an operation code -/
  | noCode
  /-- a code that is not in the table of R93 (reserved, spec/93 U11) -/
  | reservedCode (code : Code)
  /-- the operand bytes of the code are too few or too many -/
  | operandLength (code : Code)
  /-- a 10-bit operand whose value does not fit 10 bits -/
  | operandRange (code : Code)
  /-- a datum that does not have the length of its format -/
  | datumLength (format : DataFormat)
  /-- fewer than 8 bytes: no record (R88) -/
  | endOfStream
  /-- bytes behind the record -/
  | recordLength
deriving DecidableEq, Repr

end Sys2Proof
end

