-- ==== Sys2Proof/Machine/Operands.lean ====
section
/-! DEFINITION. Assembly of operands from the data formats (R80, R81, R83, R95): the fields of a
PackedWord32, the two words of a Word64, pixels and batches of buffer bytes. -/

namespace Sys2Proof.Machine

/-- `Alpha10 = (w >> 20) & 0x3FF` (R95). -/
def alpha10 (w : Word32) : Field10 := w.extractLsb' 20 10

/-- `Chroma10 = (w >> 10) & 0x3FF` (R95). -/
def chroma10 (w : Word32) : Field10 := w.extractLsb' 10 10

/-- `Luma10 = w & 0x3FF` (R95). -/
def luma10 (w : Word32) : Field10 := w.extractLsb' 0 10

/-- `(a << 20) | (c << 10) | y`, bits 31:30 zero (R81, R135). -/
def packWord (a c y : Field10) : Word32 :=
  (a.setWidth 32 <<< 20) ||| (c.setWidth 32 <<< 10) ||| y.setWidth 32

/-- `W = {word1, word2}` (R55, R83). -/
def joinWords (word1 word2 : Word32) : Word64 := word1 ++ word2

/-- `W[63:32]` (R83, R167). -/
def firstWord (w : Word64) : Word32 := w.extractLsb' 32 32

/-- `W[31:0]` (R83, R167). -/
def secondWord (w : Word64) : Word32 := w.extractLsb' 0 32

/-- The 4 bytes of a pixel in buffer order (R51, R80). -/
def pixelBytes (p : Pixel) : List Byte := [p.r, p.g, p.b, p.a]

/-- The pixel whose 4 bytes stand from index `i` (R51, R80). -/
def pixelAt (bytes : List Byte) (i : Nat) : Pixel :=
  { r := byteAt bytes i, g := byteAt bytes (i + 1), b := byteAt bytes (i + 2), a := byteAt bytes (i + 3) }

/-- The 32 bytes of a batch (R52). -/
def batchBytes (p : Batch) : List Byte :=
  pixelBytes p.p0 ++ pixelBytes p.p1 ++ pixelBytes p.p2 ++ pixelBytes p.p3 ++
  pixelBytes p.p4 ++ pixelBytes p.p5 ++ pixelBytes p.p6 ++ pixelBytes p.p7

/-- The batch whose 32 bytes stand from index `i` (R52, R137). -/
def batchAt (bytes : List Byte) (i : Nat) : Batch :=
  { p0 := pixelAt bytes i,        p1 := pixelAt bytes (i + 4),
    p2 := pixelAt bytes (i + 8),  p3 := pixelAt bytes (i + 12),
    p4 := pixelAt bytes (i + 16), p5 := pixelAt bytes (i + 20),
    p6 := pixelAt bytes (i + 24), p7 := pixelAt bytes (i + 28) }

end Sys2Proof.Machine
end

