-- ==== Sys2Proof/Machine/State.lean ====
section
/-! DEFINITION. The state of AIT-CORE as plain data (spec/10_state.md R21 to R37), the reasons a step can stop,
and the state after reset. -/

namespace Sys2Proof.Machine

/-- PROFILE.STD, a 1-bit register: 0 = BT.601, 1 = BT.709 (R24). -/
inductive Standard where
  | bt601
  | bt709
deriving DecidableEq, Repr

/-- The three typed failures of a call (R280). -/
inductive Failure where
  | invalidDimensions
  | bufferLengthMismatch
  | insufficientCompressedData
deriving DecidableEq, Repr

/-- The three address spaces (R31, R50). -/
inductive Space where
  | rgbaIn
  | comp
  | rgbaOut
deriving DecidableEq, Repr

/-- The contents of one address space: (offset, byte) pairs, offsets strictly rising, no byte equal to what an
unlisted offset reads as (zero, log entry 3). -/
abbrev Memory := List Host.Cell

/-- A buffer: its length in bytes, as the host handed it over, and its contents (R31, R61). -/
structure Buffer where
  len : Len
  mem : Memory
deriving DecidableEq, Repr

/-- What an operation gives back to the host (the result column of R93). The spec holds results in no register:
this is the model's own field (log entry 7). -/
inductive Result where
  /-- the operation has no result of its own -/
  | noResult
  /-- FWD.Y, FWD.CB, FWD.CR, FWD.A -/
  | field10 (v : Field10)
  /-- PACK -/
  | word32 (w : Word32)
  /-- FWD.PAIR -/
  | word64 (w : Word64)
  /-- FWD.BATCH -/
  | words (w0 w1 w2 w3 : Word64)
  /-- UNPACK -/
  | fields (a c y : Field10)
  /-- INV.Y, INV.UV, INV.A -/
  | rational (q : Q)
  /-- INV.RGB -/
  | rgb (r g b : Byte)
  /-- a Pixel -/
  | pixel (p : Pixel)
  /-- INV.PAIR -/
  | pixels (p1 p2 : Pixel)
  /-- INV.BATCH -/
  | batch (p : Batch)
  /-- RLE.FINISH -/
  | byteCount (n : Len)
  /-- RLD.READ: `Some` word, or `None` at the end of the stream -/
  | sample (v : Option Word64)
deriving DecidableEq, Repr

/-- The machine stops with a fault. No rule of the spec makes AIT-CORE stop so: its three failures end a call
and are reported in STATUS.ERR (R280, R286), and what has no meaning is refused (R65, spec/93). -/
inductive Fault
deriving DecidableEq, Repr

/-- The machine has no meaning for what it was asked to do (spec/93, treatment `refuse`). -/
inductive Refusal where
  /-- Raised by an arm of `exec` whose instruction has no meaning yet; safe. -/
  | notModelled (mnemonic : String)
  /-- Raised by `step` on a request that is no instruction: a reserved operation code (R93, spec/93 U11) or
  operands that do not have the operation's form (R94); safe. -/
  | undecodable (e : DecodeError)
  /-- Raised by MemRead and MemWrite outside a buffer's length (R65, R199; spec/93 U5); safe. -/
  | outsideBuffer (space : Space)
  /-- Raised by RLD.READ, DECODE and a RUN record on a run record with `L = 0` (R226; spec/93 U3); safe. -/
  | runLengthZero
  /-- Raised by RLE.PUSH after RLE.FINISH without RLE.INIT (R193, R321; spec/93 U4); safe. -/
  | pushAfterFinish
deriving DecidableEq, Repr

/-- The whole state (R21), and five fields of the model's own. -/
structure State where
  /-- PROFILE.STD (R24) -/
  std : Standard
  /-- ENC.LW, `last_word` (R25) -/
  encLw : Word64
  /-- ENC.MC, `match_count` (R26) -/
  encMc : Count
  /-- ENC.WC, the output cursor (R27) -/
  encWc : Len
  /-- DEC.RO, `read_offset` (R28) -/
  decRo : Len
  /-- DEC.RR, `rle_remaining` (R29) -/
  decRr : Count
  /-- DEC.LEN (R30) -/
  decLen : Len
  /-- PIPE.BI (R30) -/
  pipeBi : Len
  /-- STATUS.ERR (R33, R284) -/
  statusErr : BitVec 2
  /-- STATUS.OUT_LEN (R33) -/
  statusOutLen : Len
  /-- CMD.OP (R32) -/
  cmdOp : Code
  /-- CMD.WIDTH (R32) -/
  cmdWidth : Dim
  /-- CMD.HEIGHT (R32) -/
  cmdHeight : Dim
  /-- CMD.IN_LEN (R32) -/
  cmdInLen : Len
  /-- CMD.OUT_CAP (R32) -/
  cmdOutCap : Len
  /-- RGBA_IN (R31) -/
  rgbaIn : Buffer
  /-- COMP (R31) -/
  comp : Buffer
  /-- RGBA_OUT (R31) -/
  rgbaOut : Buffer
  /-- the model's own: RLE.FINISH has ended the stream and no RLE.INIT has followed (R321, log entry 9) -/
  encFinished : Bool
  /-- the model's own: the result of the last operation (log entry 7) -/
  result : Result
  /-- the model's own: what the host will start, in order (R20, log entry 4) -/
  requests : List Request
  /-- the model's own: the open parameters of R8, constant (log entry 2) -/
  config : Config
deriving DecidableEq, Repr

/-- A buffer that no call has handed over yet (log entry 3). -/
def Buffer.empty : Buffer := { len := 0, mem := [] }

/-- The machine right after reset (R37, R310). PROFILE.STD, ENC.LW, DEC.LEN and CMD.* have no value in the spec:
log entry 1. -/
def State.reset : State :=
  { std := .bt601, encLw := 0, encMc := 0, encWc := 0,
    decRo := 0, decRr := 0, decLen := 0, pipeBi := 0,
    statusErr := 0, statusOutLen := 0,
    cmdOp := 0, cmdWidth := 0, cmdHeight := 0, cmdInLen := 0, cmdOutCap := 0,
    rgbaIn := Buffer.empty, comp := Buffer.empty, rgbaOut := Buffer.empty,
    encFinished := false, result := .noResult, requests := [], config := Config.standard }

end Sys2Proof.Machine
end

