-- ==== Sys2Proof/Machine/Ops.lean ====
section
/-! DEFINITION. The named operations over registers and buffers: register updates, MemRead and MemWrite (R14,
R65), the start of a call (R32), its end with success, and `raise` (R286). -/

namespace Sys2Proof.Machine

/-! ## Register updates -/

def State.withResult (s : State) (r : Result) : State := { s with result := r }
def State.withStatus (s : State) (err : BitVec 2) (n : Len) : State := { s with statusErr := err, statusOutLen := n }
def State.withStd (s : State) (x : Standard) : State := { s with std := x }
def State.withEncoder (s : State) (lw : Word64) (mc : Count) (wc : Len) : State :=
  { s with encLw := lw, encMc := mc, encWc := wc }
def State.withEncFinished (s : State) (b : Bool) : State := { s with encFinished := b }
def State.withDecoder (s : State) (ro : Len) (rr : Count) : State := { s with decRo := ro, decRr := rr }
def State.withDecLen (s : State) (n : Len) : State := { s with decLen := n }
def State.withPipeBi (s : State) (n : Len) : State := { s with pipeBi := n }
def State.withCmd (s : State) (op : Code) (w h : Dim) (n c : Len) : State :=
  { s with cmdOp := op, cmdWidth := w, cmdHeight := h, cmdInLen := n, cmdOutCap := c }
def State.withRgbaIn (s : State) (b : Buffer) : State := { s with rgbaIn := b }
def State.withComp (s : State) (b : Buffer) : State := { s with comp := b }
def State.withRgbaOut (s : State) (b : Buffer) : State := { s with rgbaOut := b }
def State.withRequests (s : State) (r : List Request) : State := { s with requests := r }

/-! ## Buffers -/

/-- The buffer of an address space (R31). -/
def State.buffer (s : State) : Space → Buffer
  | .rgbaIn => s.rgbaIn
  | .comp => s.comp
  | .rgbaOut => s.rgbaOut

/-- Replace the buffer of an address space. -/
def State.withBuffer (s : State) : Space → Buffer → State
  | .rgbaIn, b => s.withRgbaIn b
  | .comp, b => s.withComp b
  | .rgbaOut, b => s.withRgbaOut b

/-- Hand a buffer of length `n` over to the block; its contents are as they stand (R31, R61). -/
def Buffer.withLen (b : Buffer) (n : Len) : Buffer := { b with len := n }

/-- The same buffer with other contents. -/
def Buffer.withMem (b : Buffer) (m : Memory) : Buffer := { b with mem := m }

/-- `MemRead(SPACE, off, n)`: no meaning outside the buffer (R14, R65). -/
def memRead (s : State) (space : Space) (off n : Nat) : Except Refusal (List Byte) :=
  if off + n ≤ (s.buffer space).len.toNat then .ok (readBytes (s.buffer space).mem off n)
  else .error (.outsideBuffer space)

/-- `MemWrite(SPACE, off, n, bytes)`: no meaning outside the buffer (R14, R65). -/
def memWrite (s : State) (space : Space) (off : Nat) (bytes : List Byte) : Except Refusal State :=
  if off + bytes.length ≤ (s.buffer space).len.toNat then
    .ok (s.withBuffer space ((s.buffer space).withMem (writeBytes (s.buffer space).mem off bytes)))
  else .error (.outsideBuffer space)

/-- What the host does to set up a buffer before a call (R312): its bytes and its length. Not a step. -/
def State.hostLoad (s : State) (space : Space) (bytes : List Byte) : State :=
  s.withBuffer space { len := BitVec.ofNat 64 bytes.length, mem := writeBytes [] 0 bytes }

/-! ## Calls -/

/-- The start of a call: the descriptor takes the call's operands, and nothing else changes (R32). The call has
no component result. -/
def State.startCall (s : State) (op : Code) (w h : Dim) (n c : Len) : State :=
  (s.withCmd op w h n c).withResult .noResult

/-- The code of a failure in STATUS.ERR (R284). -/
def failureCode : Failure → BitVec 2
  | .invalidDimensions => 1
  | .bufferLengthMismatch => 2
  | .insufficientCompressedData => 3

/-- `raise E` (R286): STATUS.ERR takes the code of the failure and STATUS.OUT_LEN takes 0; nothing else happens,
nothing is saved, and there is nothing to return from. -/
def State.raise (s : State) (e : Failure) : State := s.withStatus (failureCode e) 0

/-- The end of a successful call (R253, R259). -/
def State.succeed (s : State) (outLen : Len) : State := s.withStatus 0 outLen

/-- `WIDTH * HEIGHT * 4`, exact (R32, R250). -/
def frameBytes (w h : Dim) : Nat := w.toNat * h.toNat * 4

/-! ## Outcomes -/

/-- An operation that has a next state or no meaning, as an outcome of `exec`. -/
def outcomeOf : Except Refusal State → Host.Outcome State Fault Refusal
  | .ok s => .next s
  | .error r => .refused r

end Sys2Proof.Machine
end

