-- ==== Sys2Proof/Machine/DataFormats.lean ====
section
/-! DEFINITION. The rows of the table that are data formats (R80, R81, R83). They are no operations: the spec gives
each the value it stands for, and the block answers with that value; no register or buffer changes (log
entry 8). -/

namespace Sys2Proof.Machine

/-- PackedWord32: its three fields (R81, R95). -/
def execPackedWord32 (alpha chroma luma : Field10) (s : State) : Host.Outcome State Fault Refusal :=
  .next (s.withResult (.fields alpha chroma luma))

/-- Word64: the 64-bit integer of its two words (R55, R83). -/
def execWord64 (word1 word2 : Word32) (s : State) : Host.Outcome State Fault Refusal :=
  .next (s.withResult (.word64 (joinWords word1 word2)))

/-- Pixel: its four channels (R80). -/
def execPixel (p : Pixel) (s : State) : Host.Outcome State Fault Refusal :=
  .next (s.withResult (.pixel p))

end Sys2Proof.Machine
end

