-- ==== Sys2Proof/Machine/Arith.lean ====
section
/-! DEFINITION. The arithmetic of the converters: the four operations in the number system ARITH (R8, R10), `trunc`
(R11), `clamp` and `round` (R12). A formula's operations are made in the order in which the spec writes them, from
left to right; a change of sign is exact (log entry 2; in the spec's own number system neither matters). -/

namespace Sys2Proof.Machine

/-- A literal of D0, or an 8-bit or 10-bit input, in the number system. -/
def num (a : Arith) (x : Q) : Q :=
  match a with
  | .exactRational => x
  | .implementation n => Config.implementationValue n x

/-- `x + y` in the number system. -/
def add (a : Arith) (x y : Q) : Q :=
  match a with
  | .exactRational => x + y
  | .implementation n => Config.implementationResult n .add x y

/-- `x - y` in the number system. -/
def sub (a : Arith) (x y : Q) : Q :=
  match a with
  | .exactRational => x - y
  | .implementation n => Config.implementationResult n .sub x y

/-- `x * y` in the number system. -/
def mul (a : Arith) (x y : Q) : Q :=
  match a with
  | .exactRational => x * y
  | .implementation n => Config.implementationResult n .mul x y

/-- `x / y` in the number system. -/
def div (a : Arith) (x y : Q) : Q :=
  match a with
  | .exactRational => x / y
  | .implementation n => Config.implementationResult n .div x y

/-- `trunc(x)`: discard the fractional part, toward zero (R11). -/
def trunc (x : Q) : Int := Int.tdiv x.num x.den

/-- `clamp(x, lo, hi)` (R12). -/
def clamp (x lo hi : Q) : Q := if x < lo then lo else if hi < x then hi else x

/-- `round(x)` to the nearest integer, a tie by ROUND_TIE (R12, R166). -/
def roundNearest (tie : RoundTie) (x : Q) : Int :=
  if x - x.floor < 1 / 2 then x.floor
  else if 1 / 2 < x - x.floor then x.floor + 1
  else
    match tie with
    | .halfUp => x.floor + 1
    | .halfDown => x.floor
    | .halfEven => if x.floor % 2 = 0 then x.floor else x.floor + 1

/-- A truncated value in its 10-bit field (R134). An exact value always fits (R138); one of an implementation that
does not fit gives a free field. -/
def toField10 (a : Arith) (x : Q) : Field10 :=
  match a with
  | .exactRational => BitVec.ofInt 10 (trunc x)
  | .implementation n =>
    if 0 ≤ trunc x ∧ trunc x < 1024 then BitVec.ofInt 10 (trunc x) else Config.implementationField n x

/-- `round(clamp(x, 0, 255))` as a channel (R164, R165, R167). -/
def toChannel (tie : RoundTie) (x : Q) : Byte := BitVec.ofInt 8 (roundNearest tie (clamp x 0 255))

end Sys2Proof.Machine
end

