-- ==== Sys2Proof/Machine/Profile.lean ====
section
/-! DEFINITION. ColorimetryProfile (spec/40_profile.md): the coefficient file and PROFILE.SEL. -/

namespace Sys2Proof.Machine

/-- `HD_HEIGHT` (R8, R110). -/
def hdHeight : Nat := 720

/-- The value of PROFILE.STD as its one bit (R24). -/
def Standard.bit : Standard → BitVec 1
  | .bt601 => 0
  | .bt709 => 1

/-- Every coefficient from the two luma weights (R112 to R115): `Kg = 1 - Kr - Kb`, the scales 219/64, 224/128 and
219/255*4, the ratios `K/(1-K')`, and `K(1-K)/Kg`. -/
def deriveCoefficients (a : Arith) (kr kb : Q) : Coefficients :=
  let one := num a 1
  let oneMinusKr := sub a one kr
  let oneMinusKb := sub a one kb
  let kg := sub a oneMinusKr kb
  { kr := kr, kb := kb, kg := kg,
    lumaScale := div a (num a 219) (num a 64), lumaOffset := num a 64,
    chromaScale := div a (num a 224) (num a 128), chromaOffset := num a 512,
    alphaScale := mul a (div a (num a 219) (num a 255)) (num a 4), alphaOffset := num a 64,
    krOver1mKb := div a kr oneMinusKb, kgOver1mKb := div a kg oneMinusKb,
    kbOver1mKr := div a kb oneMinusKr, kgOver1mKr := div a kg oneMinusKr,
    oneMinusKr := oneMinusKr, oneMinusKb := oneMinusKb,
    crToG := div a (mul a kr oneMinusKr) kg, cbToG := div a (mul a kb oneMinusKb) kg }

/-- The coefficient file in a number system (R24, R111, R119). -/
def coefficients (a : Arith) : Standard → Coefficients
  | .bt601 => deriveCoefficients a (num a (299 / 1000)) (num a (114 / 1000))
  | .bt709 => deriveCoefficients a (num a (2126 / 10000)) (num a (722 / 10000))

/-- `CGAIN = chroma_scale / 2` (R113). -/
def cgain (a : Arith) (c : Coefficients) : Q := div a c.chromaScale (num a 2)

/-- The standard a frame height selects (R110). -/
def standardOf (height : Dim) : Standard := if hdHeight ≤ height.toNat then .bt709 else .bt601

/-- PROFILE.SEL on the registers (R110). -/
def profileSel (height : Dim) (s : State) : State := s.withStd (standardOf height)

/-- PROFILE.SEL (R110). -/
def execProfileSel (height : Dim) (s : State) : Host.Outcome State Fault Refusal :=
  .next ((profileSel height s).withResult .noResult)

end Sys2Proof.Machine
end

