-- ==== Sys2Proof/Machine/Forward.lean ====
section
/-! DEFINITION. ForwardConverter and the 4:2:2 packer (spec/41_forward.md). -/

namespace Sys2Proof.Machine

/-! ## The real values -/

/-- `Yreal = luma_offset + luma_scale * (Kr*r + Kg*g + Kb*b)` (R130). -/
def yReal (a : Arith) (c : Coefficients) (r g b : Byte) : Q :=
  add a c.lumaOffset (mul a c.lumaScale
    (add a (add a (mul a c.kr (num a r.toNat)) (mul a c.kg (num a g.toNat))) (mul a c.kb (num a b.toNat))))

/-- `Cbreal = chroma_offset + CGAIN * (-(Kr/(1-Kb))*r - (Kg/(1-Kb))*g + b)` (R131). -/
def cbReal (a : Arith) (c : Coefficients) (r g b : Byte) : Q :=
  add a c.chromaOffset (mul a (cgain a c)
    (add a (sub a (mul a (-c.krOver1mKb) (num a r.toNat)) (mul a c.kgOver1mKb (num a g.toNat))) (num a b.toNat)))

/-- `Crreal = chroma_offset + CGAIN * (r - (Kg/(1-Kr))*g - (Kb/(1-Kr))*b)` (R132). -/
def crReal (a : Arith) (c : Coefficients) (r g b : Byte) : Q :=
  add a c.chromaOffset (mul a (cgain a c)
    (sub a (sub a (num a r.toNat) (mul a c.kgOver1mKr (num a g.toNat))) (mul a c.kbOver1mKr (num a b.toNat))))

/-- `Areal = alpha_offset + alpha_scale * a` (R133). -/
def aReal (a : Arith) (c : Coefficients) (alpha : Byte) : Q :=
  add a c.alphaOffset (mul a c.alphaScale (num a alpha.toNat))

/-! ## The operations as functions -/

/-- FWD.Y (R130). -/
def fwdY (a : Arith) (std : Standard) (r g b : Byte) : Field10 := toField10 a (yReal a (coefficients a std) r g b)

/-- FWD.CB (R131). -/
def fwdCb (a : Arith) (std : Standard) (r g b : Byte) : Field10 := toField10 a (cbReal a (coefficients a std) r g b)

/-- FWD.CR (R132). -/
def fwdCr (a : Arith) (std : Standard) (r g b : Byte) : Field10 := toField10 a (crReal a (coefficients a std) r g b)

/-- FWD.A (R133). -/
def fwdA (a : Arith) (std : Standard) (alpha : Byte) : Field10 := toField10 a (aReal a (coefficients a std) alpha)

/-- FWD.PAIR (R136): chroma from the first pixel only. -/
def fwdPair (a : Arith) (std : Standard) (p1 p2 : Pixel) : Word64 :=
  joinWords
    (packWord (fwdA a std p1.a) (fwdCb a std p1.r p1.g p1.b) (fwdY a std p1.r p1.g p1.b))
    (packWord (fwdA a std p2.a) (fwdCr a std p1.r p1.g p1.b) (fwdY a std p2.r p2.g p2.b))

/-! ## The meanings -/

/-- FWD.Y (R130). -/
def execFwdY (r g b : Byte) (s : State) : Host.Outcome State Fault Refusal :=
  .next (s.withResult (.field10 (fwdY s.config.arith s.std r g b)))

/-- FWD.CB (R131). -/
def execFwdCb (r g b : Byte) (s : State) : Host.Outcome State Fault Refusal :=
  .next (s.withResult (.field10 (fwdCb s.config.arith s.std r g b)))

/-- FWD.CR (R132). -/
def execFwdCr (r g b : Byte) (s : State) : Host.Outcome State Fault Refusal :=
  .next (s.withResult (.field10 (fwdCr s.config.arith s.std r g b)))

/-- FWD.A (R133). -/
def execFwdA (a : Byte) (s : State) : Host.Outcome State Fault Refusal :=
  .next (s.withResult (.field10 (fwdA s.config.arith s.std a)))

/-- PACK (R135). -/
def execPack (a c y : Field10) (s : State) : Host.Outcome State Fault Refusal :=
  .next (s.withResult (.word32 (packWord a c y)))

/-- FWD.PAIR (R136). -/
def execFwdPair (p1 p2 : Pixel) (s : State) : Host.Outcome State Fault Refusal :=
  .next (s.withResult (.word64 (fwdPair s.config.arith s.std p1 p2)))

/-- FWD.BATCH (R137). -/
def execFwdBatch (p : Batch) (s : State) : Host.Outcome State Fault Refusal :=
  .next (s.withResult (.words (fwdPair s.config.arith s.std p.p0 p.p1) (fwdPair s.config.arith s.std p.p2 p.p3)
    (fwdPair s.config.arith s.std p.p4 p.p5) (fwdPair s.config.arith s.std p.p6 p.p7)))

end Sys2Proof.Machine
end

