-- ==== Sys2Proof/Machine/Inverse.lean ====
section
/-! DEFINITION. InverseConverter (spec/42_inverse.md). -/

namespace Sys2Proof.Machine

/-! ## De-scaling and reconstruction -/

/-- `y_full = (y10 - luma_offset) / luma_scale` (R161). -/
def yFull (a : Arith) (c : Coefficients) (y : Field10) : Q := div a (sub a (num a y.toNat) c.lumaOffset) c.lumaScale

/-- `uv_full = (uv10 - chroma_offset) / (chroma_scale/2)`, for Cb and for Cr (R162). -/
def uvFull (a : Arith) (c : Coefficients) (uv : Field10) : Q :=
  div a (sub a (num a uv.toNat) c.chromaOffset) (cgain a c)

/-- `a_full = (a10 - alpha_offset) / alpha_scale` (R163). -/
def aFull (a : Arith) (c : Coefficients) (alpha : Field10) : Q :=
  div a (sub a (num a alpha.toNat) c.alphaOffset) c.alphaScale

/-- `Rreal = y_full + (1-Kr) * cr_full` (R164). -/
def rReal (a : Arith) (c : Coefficients) (y cr : Q) : Q := add a y (mul a c.oneMinusKr cr)

/-- `Greal = y_full - (Kr(1-Kr)/Kg) * cr_full - (Kb(1-Kb)/Kg) * cb_full` (R164). -/
def gReal (a : Arith) (c : Coefficients) (y cb cr : Q) : Q :=
  sub a (sub a y (mul a c.crToG cr)) (mul a c.cbToG cb)

/-- `Breal = y_full + (1-Kb) * cb_full` (R164). -/
def bReal (a : Arith) (c : Coefficients) (y cb : Q) : Q := add a y (mul a c.oneMinusKb cb)

/-- One reconstructed pixel: INV.RGB for the colour, the rounded INV.A for alpha (R164, R167). -/
def invPixel (k : Config) (c : Coefficients) (y cb cr : Q) (alpha : Field10) : Pixel :=
  { r := toChannel k.roundTie (rReal k.arith c y cr), g := toChannel k.roundTie (gReal k.arith c y cb cr),
    b := toChannel k.roundTie (bReal k.arith c y cb), a := toChannel k.roundTie (aFull k.arith c alpha) }

/-- The first pixel of INV.PAIR (R167). -/
def invFirst (k : Config) (std : Standard) (w : Word64) : Pixel :=
  let c := coefficients k.arith std
  invPixel k c (yFull k.arith c (luma10 (firstWord w))) (uvFull k.arith c (chroma10 (firstWord w)))
    (uvFull k.arith c (chroma10 (secondWord w))) (alpha10 (firstWord w))

/-- The second pixel of INV.PAIR: the same chroma, its own luma and alpha (R167). -/
def invSecond (k : Config) (std : Standard) (w : Word64) : Pixel :=
  let c := coefficients k.arith std
  invPixel k c (yFull k.arith c (luma10 (secondWord w))) (uvFull k.arith c (chroma10 (firstWord w)))
    (uvFull k.arith c (chroma10 (secondWord w))) (alpha10 (secondWord w))

/-- INV.BATCH (R168). -/
def invBatch (k : Config) (std : Standard) (w0 w1 w2 w3 : Word64) : Batch :=
  { p0 := invFirst k std w0, p1 := invSecond k std w0,
    p2 := invFirst k std w1, p3 := invSecond k std w1,
    p4 := invFirst k std w2, p5 := invSecond k std w2,
    p6 := invFirst k std w3, p7 := invSecond k std w3 }

/-! ## The meanings -/

/-- UNPACK (R160): bits 31:30 are not read. -/
def execUnpack (w : Word32) (s : State) : Host.Outcome State Fault Refusal :=
  .next (s.withResult (.fields (alpha10 w) (chroma10 w) (luma10 w)))

/-- INV.Y (R161). -/
def execInvY (y : Field10) (s : State) : Host.Outcome State Fault Refusal :=
  .next (s.withResult (.rational (yFull s.config.arith (coefficients s.config.arith s.std) y)))

/-- INV.UV (R162). -/
def execInvUv (uv : Field10) (s : State) : Host.Outcome State Fault Refusal :=
  .next (s.withResult (.rational (uvFull s.config.arith (coefficients s.config.arith s.std) uv)))

/-- INV.A (R163). -/
def execInvA (a : Field10) (s : State) : Host.Outcome State Fault Refusal :=
  .next (s.withResult (.rational (aFull s.config.arith (coefficients s.config.arith s.std) a)))

/-- INV.RGB (R164). -/
def execInvRgb (y cb cr : Q) (s : State) : Host.Outcome State Fault Refusal :=
  let k := s.config
  let c := coefficients k.arith s.std
  .next (s.withResult (.rgb (toChannel k.roundTie (rReal k.arith c y cr))
    (toChannel k.roundTie (gReal k.arith c y cb cr)) (toChannel k.roundTie (bReal k.arith c y cb))))

/-- INV.PAIR (R167). -/
def execInvPair (w : Word64) (s : State) : Host.Outcome State Fault Refusal :=
  .next (s.withResult (.pixels (invFirst s.config s.std w) (invSecond s.config s.std w)))

/-- INV.BATCH (R168). -/
def execInvBatch (w0 w1 w2 w3 : Word64) (s : State) : Host.Outcome State Fault Refusal :=
  .next (s.withResult (.batch (invBatch s.config s.std w0 w1 w2 w3)))

end Sys2Proof.Machine
end

