-- ==== Sys2Proof/Decode.lean ====
section
/-! DEFINITION. The decoder of requests (R93) and of stream records (R88), total on any bytes and rejecting by
name, and after it the encoder of the same forms. -/

namespace Sys2Proof

open Machine

/-- MARKER, the 8 bytes FE that open a run record, as an integer (R86). -/
def marker : Word64 := 0xFEFEFEFEFEFEFEFE

/-- An operation whose operands take exactly `n` bytes. -/
def withOperands (code : Code) (n : Nat) (operands : List Byte) (i : Instr) : Except DecodeError Instr :=
  if operands.length = n then .ok i else .error (.operandLength code)

/-- A 10-bit operand of two bytes from index `i`: its upper six bits must be zero. -/
def field10At (bytes : List Byte) (i : Nat) : Field10 := (be16At bytes i).setWidth 10

/-- The two bytes from index `i` hold a 10-bit value. -/
def fits10At (bytes : List Byte) (i : Nat) : Bool := (be16At bytes i).extractLsb' 10 6 == 0

/-- A natural number of any size at the head of the bytes, 7 bits in a byte, the most significant first, bit 7 set in
every byte but the last (log entry 6); `acc` is what the bytes before it give. -/
def takeNat (acc : Nat) : List Byte → Option (Nat × List Byte)
  | [] => none
  | b :: rest =>
    if b.toNat < 128 then some (acc * 128 + b.toNat, rest) else takeNat (acc * 128 + (b.toNat - 128)) rest

/-- The integer of a natural number: an even one stands for its half, an odd one for a negative integer. -/
def unfoldSign (n : Nat) : Int := if n % 2 = 0 then (n / 2 : Nat) else -((n / 2 + 1 : Nat) : Int)

/-- A rational operand at the head of the bytes: its numerator, then its denominator less one (log entry 6). -/
def takeRational (bytes : List Byte) : Option (Q × List Byte) :=
  match takeNat 0 bytes with
  | none => none
  | some (n, rest) =>
    match takeNat 0 rest with
    | none => none
    | some (d, rest) => some (mkRat (unfoldSign n) (d + 1), rest)

/-- The three rational operands of INV.RGB, with nothing behind them. -/
def decodeRationals (code : Code) (o : List Byte) : Except DecodeError Instr :=
  match takeRational o with
  | none => .error (.operandLength code)
  | some (y, o) =>
    match takeRational o with
    | none => .error (.operandLength code)
    | some (cb, o) =>
      match takeRational o with
      | some (cr, []) => .ok (.invRgb y cb cr)
      | _ => .error (.operandLength code)

/-- The operations whose operands are 10-bit values, `n` of them. -/
def withFields (code : Code) (n : Nat) (operands : List Byte) (i : Instr) : Except DecodeError Instr :=
  if operands.length = 2 * n then
    if (List.range n).all (fun k => fits10At operands (2 * k)) then .ok i else .error (.operandRange code)
  else .error (.operandLength code)

/-- An operation from its code and its operand bytes, by the table of R93. -/
def decodeOperation (code : Code) (o : List Byte) : Except DecodeError Instr :=
  match code.toNat with
  | 0x00 => withOperands code 4 o (.profileSel (be32At o 0))
  | 0x10 => withOperands code 3 o (.fwdY (byteAt o 0) (byteAt o 1) (byteAt o 2))
  | 0x11 => withOperands code 3 o (.fwdCb (byteAt o 0) (byteAt o 1) (byteAt o 2))
  | 0x12 => withOperands code 3 o (.fwdCr (byteAt o 0) (byteAt o 1) (byteAt o 2))
  | 0x13 => withOperands code 1 o (.fwdA (byteAt o 0))
  | 0x14 => withFields code 3 o (.pack (field10At o 0) (field10At o 2) (field10At o 4))
  | 0x15 => withOperands code 8 o (.fwdPair (pixelAt o 0) (pixelAt o 4))
  | 0x16 => withOperands code 32 o (.fwdBatch (batchAt o 0))
  | 0x20 => withOperands code 4 o (.unpack (be32At o 0))
  | 0x21 => withFields code 1 o (.invY (field10At o 0))
  | 0x22 => withFields code 1 o (.invUv (field10At o 0))
  | 0x23 => withFields code 1 o (.invA (field10At o 0))
  | 0x24 => decodeRationals code o
  | 0x25 => withOperands code 8 o (.invPair (be64At o 0))
  | 0x26 => withOperands code 32 o (.invBatch (be64At o 0) (be64At o 8) (be64At o 16) (be64At o 24))
  | 0x30 => withOperands code 0 o .rleInit
  | 0x31 => withOperands code 8 o (.rlePush (be64At o 0))
  | 0x32 => withOperands code 0 o .rleFlush
  | 0x33 => withOperands code 0 o .rleFinish
  | 0x40 => withOperands code 8 o (.rldInit (be64At o 0))
  | 0x41 => withOperands code 0 o .rldRead
  | 0x50 => withOperands code 24 o (.encode (be32At o 0) (be32At o 4) (be64At o 8) (be64At o 16))
  | 0x51 => withOperands code 24 o (.decode (be32At o 0) (be32At o 4) (be64At o 8) (be64At o 16))
  | _ => .error (.reservedCode code)

/-- A datum in one of the three data formats. Bits 31:30 of a PackedWord32 are not read (R84, R95). -/
def decodeDatum (f : DataFormat) (bytes : List Byte) : Except DecodeError Instr :=
  match f with
  | .packedWord32 =>
    if bytes.length = 4 then
      .ok (.packedWord32 (alpha10 (be32At bytes 0)) (chroma10 (be32At bytes 0)) (luma10 (be32At bytes 0)))
    else .error (.datumLength f)
  | .word64 =>
    if bytes.length = 8 then .ok (.word64 (be32At bytes 0) (be32At bytes 4)) else .error (.datumLength f)
  | .pixel =>
    if bytes.length = 4 then .ok (.pixel (pixelAt bytes 0)) else .error (.datumLength f)

/-- What the host's request asks for. -/
def decodeRequest : Request → Except DecodeError Instr
  | .operation [] => .error .noCode
  | .operation (code :: operands) => decodeOperation code operands
  | .datum f bytes => decodeDatum f bytes

/-- The record at a record boundary and the bytes behind it, where `bytes` is all that remains of the stream,
or its first 24 bytes or more (R88). -/
def decodeRecord (bytes : List Byte) : Except DecodeError (Instr × List Byte) :=
  if bytes.length < 8 then .error .endOfStream
  else if 24 ≤ bytes.length ∧ be64At bytes 0 = marker then
    .ok (.run (be64At bytes 8) (be64At bytes 16), bytes.drop 24)
  else .ok (.lit (be64At bytes 0), bytes.drop 8)

/-- The instruction an encoding stands for. -/
def decode : Encoded → Except DecodeError Instr
  | .request r => decodeRequest r
  | .record bytes =>
    match decodeRecord bytes with
    | .ok (i, []) => .ok i
    | .ok (_, _ :: _) => .error .recordLength
    | .error e => .error e

/-! ## The encoder -/

/-- An operation request: the code, then the operand bytes. -/
def operationOf (code : Code) (operands : List Byte) : Encoded := .request (.operation (code :: operands))

/-- The bytes of a natural number before its last one; `fuel` bounds their count. -/
def natHighBytes : Nat → Nat → List Byte
  | 0, _ => []
  | fuel + 1, n => if n = 0 then [] else natHighBytes fuel (n / 128) ++ [BitVec.ofNat 8 (n % 128 + 128)]

/-- The bytes of a natural number of any size (log entry 6). -/
def natBytes (n : Nat) : List Byte := natHighBytes n (n / 128) ++ [BitVec.ofNat 8 (n % 128)]

/-- The natural number that stands for an integer: `unfoldSign` undone. -/
def foldSign (z : Int) : Nat := if 0 ≤ z then 2 * z.toNat else 2 * (-z).toNat - 1

/-- The operand bytes of a rational (log entry 6). -/
def rationalBytes (q : Q) : List Byte := natBytes (foldSign q.num) ++ natBytes (q.den - 1)

/-- The encoding of an instruction: R93 for operations, R87 for records, R80, R81, R83 for data. -/
def encode : Instr → Encoded
  | .profileSel h => operationOf 0x00 (be32Bytes h)
  | .fwdY r g b => operationOf 0x10 [r, g, b]
  | .fwdCb r g b => operationOf 0x11 [r, g, b]
  | .fwdCr r g b => operationOf 0x12 [r, g, b]
  | .fwdA a => operationOf 0x13 [a]
  | .pack a c y => operationOf 0x14 (be10Bytes a ++ be10Bytes c ++ be10Bytes y)
  | .fwdPair p1 p2 => operationOf 0x15 (pixelBytes p1 ++ pixelBytes p2)
  | .fwdBatch p => operationOf 0x16 (batchBytes p)
  | .unpack w => operationOf 0x20 (be32Bytes w)
  | .invY y => operationOf 0x21 (be10Bytes y)
  | .invUv uv => operationOf 0x22 (be10Bytes uv)
  | .invA a => operationOf 0x23 (be10Bytes a)
  | .invRgb y cb cr => operationOf 0x24 (rationalBytes y ++ rationalBytes cb ++ rationalBytes cr)
  | .invPair w => operationOf 0x25 (be64Bytes w)
  | .invBatch w0 w1 w2 w3 => operationOf 0x26 (be64Bytes w0 ++ be64Bytes w1 ++ be64Bytes w2 ++ be64Bytes w3)
  | .rleInit => operationOf 0x30 []
  | .rlePush w => operationOf 0x31 (be64Bytes w)
  | .rleFlush => operationOf 0x32 []
  | .rleFinish => operationOf 0x33 []
  | .rldInit n => operationOf 0x40 (be64Bytes n)
  | .rldRead => operationOf 0x41 []
  | .encode w h n c => operationOf 0x50 (be32Bytes w ++ be32Bytes h ++ be64Bytes n ++ be64Bytes c)
  | .decode w h n c => operationOf 0x51 (be32Bytes w ++ be32Bytes h ++ be64Bytes n ++ be64Bytes c)
  | .lit v => .record (be64Bytes v)
  | .run n v => .record (be64Bytes marker ++ be64Bytes n ++ be64Bytes v)
  | .packedWord32 a c y => .request (.datum .packedWord32 (be32Bytes (packWord a c y)))
  | .word64 w1 w2 => .request (.datum .word64 (be32Bytes w1 ++ be32Bytes w2))
  | .pixel p => .request (.datum .pixel (pixelBytes p))

/-! ## The table's own numbering of an instruction's bits -/

/-- How many operand bytes follow a code, at the least for INV.RGB; none follow a reserved one. -/
def operandBytes (code : Code) : Nat :=
  match code.toNat with
  | 0x00 => 4
  | 0x10 => 3
  | 0x11 => 3
  | 0x12 => 3
  | 0x13 => 1
  | 0x14 => 6
  | 0x15 => 8
  | 0x16 => 32
  | 0x20 => 4
  | 0x21 => 2
  | 0x22 => 2
  | 0x23 => 2
  | 0x24 => 6
  | 0x25 => 8
  | 0x26 => 32
  | 0x31 => 8
  | 0x40 => 8
  | 0x50 => 24
  | 0x51 => 24
  | _ => 0

/-- `n` bytes of `w`, the byte of bits 7:0 first. -/
def lowBytes : Nat → Nat → List Byte
  | 0, _ => []
  | n + 1, w => BitVec.ofNat 8 w :: lowBytes n (w / 256)

/-- An operation request whose first bytes are `bytes` and whose other operand bytes are zero. -/
def padOperation (bytes : List Byte) : List Byte :=
  bytes ++ List.replicate (1 + operandBytes (byteAt bytes 0) - bytes.length) 0

/-- The encoding a row of the table has when its bits are `w`: a row of 32 bits is the PackedWord32 (log entry 8), rows
of 64 and of 192 bits are stream records, every other row is an operation code, its operand bytes zero (log entry 4).

DESIGN CHOICE (log entry 21), on points the spec leaves open: 64 bits are a record and never the Word64 row; 64 bits equal
to MARKER are the head of RUN, with the count and the value that lie above them zero, although R88 reads a stream of 8
MARKER bytes alone as LIT; of 192 bits MARKER is the lowest 64, then L, then the value. -/
def tableEncoded (nbits w : Nat) : Encoded :=
  if nbits = 32 then .request (.datum .packedWord32 (be32Bytes (BitVec.ofNat 32 w)))
  else if nbits = 64 ∨ nbits = 192 then
    if BitVec.ofNat 64 w = marker then
      .record (be64Bytes marker ++ be64Bytes (BitVec.ofNat 64 (w / 2 ^ 64)) ++
        be64Bytes (BitVec.ofNat 64 (w / 2 ^ 128)))
    else .record (be64Bytes (BitVec.ofNat 64 w))
  else .request (.operation (padOperation (lowBytes (nbits / 8) w)))

/-- The instruction the decoder reads from a row of the table whose bits are `w`. -/
def decodeTableWord (nbits w : Nat) : Option Instr :=
  match decode (tableEncoded nbits w) with
  | .ok i => some i
  | .error _ => none

end Sys2Proof
end

