-- ==== Sys2Proof/Machine/Flags.lean ====
section
/-! DEFINITION. AIT-CORE has no flag register: two predicates over registers play the part of flags and are
computed where they are used (R23). -/

namespace Sys2Proof.Machine

/-- `ENC.MC = 0`: no run is pending (R23). -/
def State.noRunPending (s : State) : Bool := s.encMc == 0

/-- `DEC.RR > 0`: inside a run (R23). -/
def State.insideRun (s : State) : Bool := s.decRr != 0

/-- `remain`, `DEC.LEN - DEC.RO` (spec/44 introduction): how many bytes of the stream are unread. -/
def State.remain (s : State) : Nat := s.decLen.toNat - s.decRo.toNat

end Sys2Proof.Machine
end

