-- ==== Sys2Proof/Machine/RleDecoder.lean ====
section
/-! DEFINITION. RunLengthDecoder (spec/44_rle_decoder.md): RLD.INIT, RLD.READ and the stream records LIT and RUN. -/

namespace Sys2Proof.Machine

/-- RLD.INIT on the registers (R220). -/
def rldInit (length : Len) (s : State) : State := (s.withDecLen length).withDecoder 0 0

/-- `W64(COMP, off)` (R14). -/
def w64 (s : State) (off : Nat) : Except Refusal Word64 := do
  let bytes ← memRead s .comp off 8
  return be64At bytes 0

/-- Step 4 (R224): the word is delivered and DEC.RO moves past it. -/
def deliverLiteral (v : Word64) (s : State) : Option Word64 × State :=
  (some v, s.withDecoder (s.decRo + 8) s.decRr)

/-- Step 3 (R223, R226): a run record of length `l` is entered at DEC.RO; its value is delivered without moving
past it, unless the run has length 1 and RUN1_DELIVERIES is 1. Length 0 has no meaning. -/
def enterRun (l : Count) (s : State) : Except Refusal State :=
  if l = 0 then .error .runLengthZero else .ok (s.withDecoder (s.decRo + 16) (l - 1))

/-- The delivery that follows the header of a run of length `l` (R226). -/
def deliverRunHead (l : Count) (v : Word64) (s : State) : Option Word64 × State :=
  if l = 1 ∧ s.config.run1Deliveries = .once then deliverLiteral v s else (some v, s)

/-- RLD.READ on the registers (R225): what it delivers, and the state after. -/
def rldRead (s : State) : Except Refusal (Option Word64 × State) :=
  if s.remain < 8 then .ok (none, s)
  else if s.insideRun then do
    let t := s.withDecoder s.decRo (s.decRr - 1)
    let v ← w64 t t.decRo.toNat
    return if t.insideRun then (some v, t) else deliverLiteral v t
  else do
    let first ← w64 s s.decRo.toNat
    if 24 ≤ s.remain ∧ first = marker then
      let l ← w64 s (s.decRo.toNat + 8)
      let t ← enterRun l s
      let v ← w64 t t.decRo.toNat
      return deliverRunHead l v t
    else return deliverLiteral first s

/-! ## The meanings -/

/-- A delivery as the result of an operation. -/
def delivered (x : Option Word64 × State) : State := x.2.withResult (.sample x.1)

/-- RLD.INIT (R220). -/
def execRldInit (length : Len) (s : State) : Host.Outcome State Fault Refusal :=
  .next ((rldInit length s).withResult .noResult)

/-- RLD.READ (R225). -/
def execRldRead (s : State) : Host.Outcome State Fault Refusal :=
  outcomeOf (do return delivered (← rldRead s))

/-- A LIT record at DEC.RO, read at a record boundary: one delivery of its value (R87, R226). -/
def execLit (value : Word64) (s : State) : Host.Outcome State Fault Refusal :=
  .next (delivered (deliverLiteral value s))

/-- A RUN record at DEC.RO, read at a record boundary: its header is passed, DEC.RR takes the deliveries that
remain, and the value is delivered for the first time (R87, R223, R226). -/
def execRun (length : Count) (value : Word64) (s : State) : Host.Outcome State Fault Refusal :=
  outcomeOf (do return delivered (deliverRunHead length value (← enterRun length s)))

end Sys2Proof.Machine
end

