-- ==== Sys2Proof/Machine/RleEncoder.lean ====
section
/-! DEFINITION. RunLengthEncoder (spec/43_rle_encoder.md). -/

namespace Sys2Proof.Machine

/-- `EMIT(b)`: 8 bytes at ENC.WC, which moves past them (R192). No meaning past the end of COMP (R199). -/
def emit (w : Word64) (s : State) : Except Refusal State := do
  let t ← memWrite s .comp s.encWc.toNat (be64Bytes w)
  return t.withEncoder s.encLw s.encMc (s.encWc + 8)

/-- RLE.INIT on the registers; ENC.LW is left as it is (R190). -/
def rleInit (s : State) : State := (s.withEncoder s.encLw 0 0).withEncFinished false

/-- RLE.FLUSH on the registers and COMP (R192). -/
def rleFlush (s : State) : Except Refusal State :=
  match s.encMc.toNat with
  | 0 => .ok s
  | 1 => emit s.encLw s
  | 2 => do emit s.encLw (← emit s.encLw s)
  | 3 => do emit s.encLw (← emit s.encLw (← emit s.encLw s))
  | _ => do emit s.encLw (← emit s.encMc (← emit marker s))

/-- RLE.PUSH on the registers and COMP (R191). -/
def rlePush (word : Word64) (s : State) : Except Refusal State :=
  if s.noRunPending then .ok (s.withEncoder word 1 s.encWc)
  else if word = s.encLw then .ok (s.withEncoder s.encLw (s.encMc + 1) s.encWc)
  else do
    let t ← rleFlush s
    return t.withEncoder word 1 t.encWc

/-- RLE.FINISH on the registers and COMP (R193). The stream is now ended (R321). -/
def rleFinish (s : State) : Except Refusal State := do
  let t ← rleFlush s
  return (t.withEncoder t.encLw 0 t.encWc).withEncFinished true

/-! ## The meanings -/

/-- RLE.INIT (R190). -/
def execRleInit (s : State) : Host.Outcome State Fault Refusal := .next ((rleInit s).withResult .noResult)

/-- RLE.PUSH (R191). After RLE.FINISH it has no meaning until RLE.INIT (R321; spec/93 U4). -/
def execRlePush (word : Word64) (s : State) : Host.Outcome State Fault Refusal :=
  if s.encFinished then .refused .pushAfterFinish
  else outcomeOf (do let t ← rlePush word s; return t.withResult .noResult)

/-- RLE.FLUSH (R192). -/
def execRleFlush (s : State) : Host.Outcome State Fault Refusal :=
  outcomeOf (do let t ← rleFlush s; return t.withResult .noResult)

/-- RLE.FINISH: the result is ENC.WC, the total of bytes written (R193). -/
def execRleFinish (s : State) : Host.Outcome State Fault Refusal :=
  outcomeOf (do let t ← rleFinish s; return t.withResult (.byteCount t.encWc))

end Sys2Proof.Machine
end

