-- ==== Sys2Proof/Machine/Pipeline.lean ====
section
/-! DEFINITION. Pipeline (spec/45_pipeline.md): the whole-frame operations ENCODE and DECODE. -/

namespace Sys2Proof.Machine

/-- The checks of ENCODE, in their order (R251, R285). -/
def encodeCheck (w h : Dim) (inLen outCap : Len) : Option Failure :=
  if w.toNat % 8 ≠ 0 then some .invalidDimensions
  else if inLen.toNat ≠ frameBytes w h then some .bufferLengthMismatch
  else if outCap.toNat < frameBytes w h then some .bufferLengthMismatch
  else none

/-- The checks of DECODE, in their order (R256, R285). -/
def decodeCheck (w h : Dim) (outCap : Len) : Option Failure :=
  if w.toNat % 8 ≠ 0 then some .invalidDimensions
  else if outCap.toNat ≠ frameBytes w h then some .bufferLengthMismatch
  else none

/-- One batch of ENCODE: 32 bytes of RGBA_IN through FWD.BATCH, four pushes in pair order (R252). -/
def encodeBatch (s : State) : Except Refusal State := do
  let bytes ← memRead s .rgbaIn (32 * s.pipeBi.toNat) 32
  let p := batchAt bytes 0
  let s ← rlePush (fwdPair s.config.arith s.std p.p0 p.p1) s
  let s ← rlePush (fwdPair s.config.arith s.std p.p2 p.p3) s
  let s ← rlePush (fwdPair s.config.arith s.std p.p4 p.p5) s
  let s ← rlePush (fwdPair s.config.arith s.std p.p6 p.p7) s
  return s.withPipeBi (s.pipeBi + 1)

/-- `n` batches of ENCODE (R252). -/
def encodeBatches : Nat → State → Except Refusal State
  | 0, s => .ok s
  | n + 1, s => do encodeBatches n (← encodeBatch s)

/-- Four consecutive reads; `none` as soon as one of them is at the end of the stream (R232, R257, R258). -/
def readFour (s : State) : Except Refusal (Option (Word64 × Word64 × Word64 × Word64) × State) := do
  match ← rldRead s with
  | (none, s) => return (none, s)
  | (some w0, s) =>
    match ← rldRead s with
    | (none, s) => return (none, s)
    | (some w1, s) =>
      match ← rldRead s with
      | (none, s) => return (none, s)
      | (some w2, s) =>
        match ← rldRead s with
        | (none, s) => return (none, s)
        | (some w3, s) => return (some (w0, w1, w2, w3), s)

/-- One batch of DECODE: four reads, INV.BATCH, 32 bytes of RGBA_OUT. The answer says whether the four reads
succeeded; if not, nothing of the batch is written (R257, R258). -/
def decodeBatch (s : State) : Except Refusal (Bool × State) := do
  match ← readFour s with
  | (none, s) => return (false, s)
  | (some (w0, w1, w2, w3), s) =>
    let s ← memWrite s .rgbaOut (32 * s.pipeBi.toNat) (batchBytes (invBatch s.config s.std w0 w1 w2 w3))
    return (true, s.withPipeBi (s.pipeBi + 1))

/-- `n` batches of DECODE, or as many as the stream fills (R257, R258). -/
def decodeBatches : Nat → State → Except Refusal (Bool × State)
  | 0, s => .ok (true, s)
  | n + 1, s => do
    match ← decodeBatch s with
    | (false, s) => return (false, s)
    | (true, s) => decodeBatches n s

/-- Set-up of ENCODE: the buffers handed over (R31), PROFILE.SEL, RLE.INIT, PIPE.BI (R251). -/
def encodeSetup (h : Dim) (inLen outCap : Len) (s : State) : State :=
  let s := (s.withRgbaIn (s.rgbaIn.withLen inLen)).withComp (s.comp.withLen outCap)
  (rleInit (profileSel h s)).withPipeBi 0

/-- Set-up of DECODE: the buffers handed over (R31), PROFILE.SEL, RLD.INIT, PIPE.BI (R256). -/
def decodeSetup (h : Dim) (inLen outCap : Len) (s : State) : State :=
  let s := (s.withComp (s.comp.withLen inLen)).withRgbaOut (s.rgbaOut.withLen outCap)
  (rldInit inLen (profileSel h s)).withPipeBi 0

/-- ENCODE after its checks: set-up, loop, RLE.FINISH (R251 to R253). -/
def encodeFrame (w h : Dim) (inLen outCap : Len) (s : State) : Except Refusal State := do
  let s ← encodeBatches (frameBytes w h / 32) (encodeSetup h inLen outCap s)
  let s ← rleFinish s
  return s.succeed s.encWc

/-- DECODE after its checks: set-up, loop, end (R256 to R259). -/
def decodeFrame (w h : Dim) (inLen outCap : Len) (s : State) : Except Refusal State := do
  match ← decodeBatches (frameBytes w h / 32) (decodeSetup h inLen outCap s) with
  | (false, s) => return s.raise .insufficientCompressedData
  | (true, s) => return s.succeed (BitVec.ofNat 64 (frameBytes w h))

/-! ## The meanings -/

/-- ENCODE (R250). -/
def execEncode (w h : Dim) (inLen outCap : Len) (s : State) : Host.Outcome State Fault Refusal :=
  let s := s.startCall 0x50 w h inLen outCap
  match encodeCheck w h inLen outCap with
  | some e => .next (s.raise e)
  | none => outcomeOf (encodeFrame w h inLen outCap s)

/-- DECODE (R255). -/
def execDecode (w h : Dim) (inLen outCap : Len) (s : State) : Host.Outcome State Fault Refusal :=
  let s := s.startCall 0x51 w h inLen outCap
  match decodeCheck w h outCap with
  | some e => .next (s.raise e)
  | none => outcomeOf (decodeFrame w h inLen outCap s)

end Sys2Proof.Machine
end

