-- ==== Sys2Proof/Machine/Dispatch.lean ====
section
/-! DEFINITION. One arm for each row of spec/opcode_table.json. -/

namespace Sys2Proof.Machine

def exec (i : Instr) (s : State) : Host.Outcome State Fault Refusal :=
  match i with
  | .profileSel height => Sys2Proof.Machine.execProfileSel height s
  | .fwdY r g b => Sys2Proof.Machine.execFwdY r g b s
  | .fwdCb r g b => Sys2Proof.Machine.execFwdCb r g b s
  | .fwdCr r g b => Sys2Proof.Machine.execFwdCr r g b s
  | .fwdA a => Sys2Proof.Machine.execFwdA a s
  | .pack a c y => Sys2Proof.Machine.execPack a c y s
  | .fwdPair pixel1 pixel2 => Sys2Proof.Machine.execFwdPair pixel1 pixel2 s
  | .fwdBatch pixels => Sys2Proof.Machine.execFwdBatch pixels s
  | .unpack w => Sys2Proof.Machine.execUnpack w s
  | .invY y => Sys2Proof.Machine.execInvY y s
  | .invUv uv => Sys2Proof.Machine.execInvUv uv s
  | .invA a => Sys2Proof.Machine.execInvA a s
  | .invRgb yFull cbFull crFull => Sys2Proof.Machine.execInvRgb yFull cbFull crFull s
  | .invPair w => Sys2Proof.Machine.execInvPair w s
  | .invBatch w0 w1 w2 w3 => Sys2Proof.Machine.execInvBatch w0 w1 w2 w3 s
  | .rleInit => Sys2Proof.Machine.execRleInit s
  | .rlePush word => Sys2Proof.Machine.execRlePush word s
  | .rleFlush => Sys2Proof.Machine.execRleFlush s
  | .rleFinish => Sys2Proof.Machine.execRleFinish s
  | .rldInit length => Sys2Proof.Machine.execRldInit length s
  | .rldRead => Sys2Proof.Machine.execRldRead s
  | .encode width height inLen outCap => Sys2Proof.Machine.execEncode width height inLen outCap s
  | .decode width height inLen outCap => Sys2Proof.Machine.execDecode width height inLen outCap s
  | .lit value => Sys2Proof.Machine.execLit value s
  | .run length value => Sys2Proof.Machine.execRun length value s
  | .packedWord32 alpha chroma luma => Sys2Proof.Machine.execPackedWord32 alpha chroma luma s
  | .word64 word1 word2 => Sys2Proof.Machine.execWord64 word1 word2 s
  | .pixel p => Sys2Proof.Machine.execPixel p s

end Sys2Proof.Machine
end

