-- ==== Sys2Proof/Machine/Fetch.lean ====
section
/-! DEFINITION. Where the next instruction comes from: the first of the host's requests (R20; spec/92 D3), and for
a stream record the COMP buffer at DEC.RO (R15, R36). -/

namespace Sys2Proof.Machine

/-- Put a stream record where RLD.READ takes its next record: at DEC.RO of COMP, at a record boundary, as the
last record of the stream; and ask for RLD.READ. -/
def State.placeRecord (s : State) (bytes : List Byte) : State :=
  let n := BitVec.ofNat 64 (s.decRo.toNat + bytes.length)
  (((s.withComp { len := n, mem := writeBytes s.comp.mem s.decRo.toNat bytes }).withDecLen n).withDecoder
    s.decRo 0).withRequests [.operation [0x41]]

/-- Put an encoding where the next step takes its instruction. -/
def State.placeEncoded (s : State) : Encoded → State
  | .request r => s.withRequests [r]
  | .record bytes => s.placeRecord bytes

end Sys2Proof.Machine
end

