-- ==== Sys2Proof/Machine/Step.lean ====
section
/-! DEFINITION. One step: the block takes the first request of the host, if there is one, and performs it whole
(R20, R325; spec/92 D14). -/

namespace Sys2Proof.Machine

/-- With no request the block is idle and does nothing (R310). -/
def step (s : State) : Host.Outcome State Fault Refusal :=
  match s.requests with
  | [] => .next s
  | r :: rest =>
    match decodeRequest r with
    | .ok i => exec i (s.withRequests rest)
    | .error e => .refused (.undecodable e)

/-- `s` with the instruction whose bits are `w`, as spec/opcode_table.json numbers them, where the next step takes
its instruction. -/
def State.withFetchWord (s : State) (nbits w : Nat) : State := s.placeEncoded (tableEncoded nbits w)

end Sys2Proof.Machine
end

