-- ==== Sys2Proof/Safety.lean ====
section
/-! DEFINITION. The terms the claims use: what a sound state is, what a pending run and a word sequence look like in the
compressed stream (R87, R192, R194), the words and pixels of a frame (R252, R257), and sequences of operations. -/

namespace Sys2Proof.Machine

/-! ## Sound states -/

/-- The contents of the three buffers are in canonical form. -/
def State.memoriesCanonical (s : State) : Prop :=
  s.rgbaIn.mem.wf = true ∧ s.comp.mem.wf = true ∧ s.rgbaOut.mem.wf = true

/-- The cursors into COMP are multiples of 8 (R56). -/
def State.cursorsAligned (s : State) : Prop := s.encWc.toNat % 8 = 0 ∧ s.decRo.toNat % 8 = 0

/-- The decoder stands inside the stream, and inside a run the run's value word is there (R230). -/
def State.decoderInStream (s : State) : Prop :=
  s.decRo.toNat ≤ s.decLen.toNat ∧ (s.decRr ≠ 0 → 8 ≤ s.remain)

/-- What every step keeps. -/
def State.sound (s : State) : Prop := s.memoriesCanonical ∧ s.cursorsAligned ∧ s.decoderInStream

/-! ## Streams -/

/-- The bytes of a stream record; no bytes for an instruction that is no record (R87). -/
def recordBytes (i : Instr) : List Byte :=
  match encode i with
  | .record bytes => bytes
  | .request _ => []

/-- The records that stand for `n` occurrences of `v`: literals for up to three, one run record for more (R192). -/
def runRecords (v : Word64) (n : Nat) : List Instr :=
  if n ≤ 3 then List.replicate n (.lit v) else [.run (BitVec.ofNat 64 n) v]

/-- The bytes of records one behind the other (R90). -/
def recordsBytes (records : List Instr) : List Byte := records.flatMap recordBytes

/-- The maximal runs of equal consecutive words (R194). -/
def runsOf : List Word64 → List (Word64 × Nat)
  | [] => []
  | w :: ws =>
    match runsOf ws with
    | [] => [(w, 1)]
    | (v, n) :: rest => if w = v then (v, n + 1) :: rest else (w, 1) :: (v, n) :: rest

/-- The stream of a word sequence: the records of its maximal runs in order (R194). -/
def streamOf (words : List Word64) : List Byte :=
  (runsOf words).flatMap (fun run => recordsBytes (runRecords run.1 run.2))

/-- What RLE.FLUSH writes for a pending run (R192). -/
def pendingBytes (s : State) : List Byte := recordsBytes (runRecords s.encLw s.encMc.toNat)

/-- `W64(COMP, off)` as a value (R14). -/
def wordIn (m : Memory) (off : Nat) : Word64 := be64At (readBytes m off 8) 0

/-! ## Converted values -/

/-- `v` is `round(clamp(x, 0, 255))` (R12, R164): one of the nearest integers to the clamped value, and under the
default tie rule the larger one of two. -/
def roundsTo (tie : RoundTie) (v : Byte) (x : Q) : Prop :=
  clamp x 0 255 - 1 / 2 ≤ v.toNat ∧ (v.toNat : Q) ≤ clamp x 0 255 + 1 / 2 ∧
  (tie = .halfUp → clamp x 0 255 < v.toNat + 1 / 2)

/-- `RC(N, D)` (R171). -/
def rc (n d : Int) : Byte :=
  if n < 0 then 0 else if 255 * d < n then 255 else BitVec.ofInt 8 ((2 * n + d) / (2 * d))

/-! ## Frames -/

/-- The pixel at an offset of a buffer (R51). -/
def pixelIn (m : Memory) (a : Nat) : Pixel :=
  { r := readByte m a, g := readByte m (a + 1), b := readByte m (a + 2), a := readByte m (a + 3) }

/-- The Word64 of each of the first `n` SamplePairs of a buffer, in pair order (R52, R252). -/
def frameWords (a : Arith) (std : Standard) (m : Memory) (n : Nat) : List Word64 :=
  (List.range n).map (fun k => fwdPair a std (pixelIn m (8 * k)) (pixelIn m (8 * k + 4)))

/-- The 8 bytes that INV.PAIR gives for a word (R167). -/
def pairBytes (k : Config) (std : Standard) (w : Word64) : List Byte :=
  pixelBytes (invFirst k std w) ++ pixelBytes (invSecond k std w)

/-! ## Sequences of operations -/

/-- One instruction after another, as long as each has a next state. -/
def execAll : List Instr → State → Host.Outcome State Fault Refusal
  | [], s => .next s
  | i :: is, s =>
    match exec i s with
    | .next t => execAll is t
    | .fault f => .fault f
    | .refused r => .refused r

/-- RLE.INIT, one RLE.PUSH per word, RLE.FINISH (R321). -/
def encoderRun (words : List Word64) : List Instr := .rleInit :: (words.map .rlePush ++ [.rleFinish])

/-- `n` RLD.READs in a row: their results and the last state, where all of them have a next state. -/
def readsFrom : Nat → State → Option (List (Option Word64) × State)
  | 0, s => some ([], s)
  | n + 1, s =>
    match exec .rldRead s with
    | .next t =>
      match t.result, readsFrom n t with
      | .sample v, some (vs, u) => some (v :: vs, u)
      | _, _ => none
    | _ => none

/-- The state in which RLD.READ starts on a stream of `n` bytes in COMP (R220, R256). -/
def State.streamStart (s : State) (n : Len) : State := rldInit n (s.withComp (s.comp.withLen n))

end Sys2Proof.Machine
end

