-- ==== Sys2Proof/WellFormed.lean ====
section
/-! DEFINITION. Which instruction terms have a meaning of their own. Every operand is a bit vector of its field's
width, or a rational, which the operand encoding carries whole (log entry 6), so one check remains: a run record's
length is not the reserved 0 (R89). -/

namespace Sys2Proof

/-- An instruction whose encoding is not reserved. -/
def Instr.wellFormed : Instr → Bool
  | .profileSel _ => true
  | .fwdY _ _ _ => true
  | .fwdCb _ _ _ => true
  | .fwdCr _ _ _ => true
  | .fwdA _ => true
  | .pack _ _ _ => true
  | .fwdPair _ _ => true
  | .fwdBatch _ => true
  | .unpack _ => true
  | .invY _ => true
  | .invUv _ => true
  | .invA _ => true
  | .invRgb _ _ _ => true
  | .invPair _ => true
  | .invBatch _ _ _ _ => true
  | .rleInit => true
  | .rlePush _ => true
  | .rleFlush => true
  | .rleFinish => true
  | .rldInit _ => true
  | .rldRead => true
  | .encode _ _ _ _ => true
  | .decode _ _ _ _ => true
  | .lit _ => true
  | .run length _ => length != 0
  | .packedWord32 _ _ _ => true
  | .word64 _ _ => true
  | .pixel _ => true

end Sys2Proof
end

