-- ==== Sys2Proof/Certificates/Slice0/Obligations.lean ====
section
/-! DEFINITION. The statements for the provers. -/

open Sys2Proof
open Sys2Proof.Machine

/-! ## Reset and step -/

/-- What R37 and R310 give a value after reset, and that the block is idle. -/
def Obligations.ResetLeavesTheStatedValues : Prop :=
  State.reset.encMc = 0 ∧ State.reset.encWc = 0 ∧ State.reset.decRo = 0 ∧ State.reset.decRr = 0 ∧
  State.reset.pipeBi = 0 ∧ State.reset.statusErr = 0 ∧ State.reset.statusOutLen = 0 ∧ State.reset.requests = []

/-- The invariant of `StepKeepsTheStateSound` holds after reset. -/
def Obligations.ResetIsSound : Prop := State.reset.sound

/-- Whatever the host asks for: buffer contents stay canonical, the cursors into COMP stay multiples of 8, and the
decoder stays inside the stream (R56, R230). -/
def Obligations.StepKeepsTheStateSound : Prop :=
  ∀ s t : State, s.sound → step s = .next t → t.sound

/-- Step decodes the first request and runs it on the state without that request; an undecodable request is refused;
with no request the block does nothing. -/
def Obligations.StepRunsTheDecodedInstruction : Prop :=
  (∀ (s : State) (r : Request) (rest : List Request) (i : Instr),
    s.requests = r :: rest → decode (.request r) = .ok i → step s = exec i { s with requests := rest }) ∧
  (∀ (s : State) (r : Request) (rest : List Request) (e : DecodeError),
    s.requests = r :: rest → decode (.request r) = .error e → step s = .refused (.undecodable e)) ∧
  (∀ s : State, s.requests = [] → step s = .next s)

/-- A code that is not in the table of R93 is refused, whatever operand bytes come with it; no state follows. -/
def Obligations.ReservedCodesAreRefused : Prop :=
  ∀ (s : State) (code : Code) (operands : List Byte) (rest : List Request),
    s.requests = .operation (code :: operands) :: rest →
    code.toNat ∉ [0x00, 0x10, 0x11, 0x12, 0x13, 0x14, 0x15, 0x16, 0x20, 0x21, 0x22, 0x23, 0x24, 0x25, 0x26,
      0x30, 0x31, 0x32, 0x33, 0x40, 0x41, 0x50, 0x51] →
    step s = .refused (.undecodable (.reservedCode code))

/-! ## Encodings -/

/-- A few encodings written out by hand from R81, R87, R93. -/
def Obligations.WordsWrittenOutDecode : Prop :=
  decode (.request (.operation [0x00, 0x00, 0x00, 0x02, 0xD0])) = .ok (.profileSel 720) ∧
  decode (.request (.operation [0x10, 1, 2, 3])) = .ok (.fwdY 1 2 3) ∧
  decode (.request (.operation [0x21, 0x03, 0xAC])) = .ok (.invY 940) ∧
  decode (.request (.operation [0x31, 0x04, 0x08, 0x00, 0x40, 0x3A, 0xC8, 0x03, 0xA8])) =
    .ok (.rlePush 0x040800403AC803A8) ∧
  decode (.request (.operation [0x41])) = .ok .rldRead ∧
  decode (.record [0xFE, 0xFE, 0xFE, 0xFE, 0xFE, 0xFE, 0xFE, 0xFE, 0, 0, 0, 0, 0, 0, 0, 4,
    0x04, 0x08, 0x00, 0x40, 0x04, 0x08, 0x00, 0x40]) = .ok (.run 4 0x0408004004080040) ∧
  decode (.record [0xFE, 0xFE, 0xFE, 0xFE, 0xFE, 0xFE, 0xFE, 0xFE]) = .ok (.lit 0xFEFEFEFEFEFEFEFE) ∧
  decode (.request (.datum .packedWord32 [0x3A, 0xC6, 0xD1, 0x44])) = .ok (.packedWord32 940 436 324)

/-- Decoding an encoded instruction gives the instruction back, with every operand at every value. -/
def Obligations.DecodeInvertsEncode : Prop :=
  ∀ i : Instr, i.wellFormed = true → decode (encode i) = .ok i

/-! ## ColorimetryProfile -/

/-- R110: height 720 and above selects BT.709, below it BT.601; PROFILE.STD is the only register written. (`result` is
the model's own field, log entry 7; nothing is said of it here.) -/
def Obligations.ProfileSelSelectsByHeight : Prop :=
  ∀ (s : State) (height : Dim), ∃ r : Result,
    exec (.profileSel height) s =
      .next { s with std := if 720 ≤ height.toNat then .bt709 else .bt601, result := r }

/-- R116: the exact value of every coefficient, under ARITH = exact rationals. -/
def Obligations.CoefficientFileHoldsTheExactValues : Prop :=
  coefficients .exactRational .bt601 =
    { kr := 299 / 1000, kb := 57 / 500, kg := 587 / 1000, lumaScale := 219 / 64, lumaOffset := 64,
      chromaScale := 7 / 4, chromaOffset := 512, alphaScale := 292 / 85, alphaOffset := 64,
      krOver1mKb := 299 / 886, kgOver1mKb := 587 / 886, kbOver1mKr := 114 / 701, kgOver1mKr := 587 / 701,
      oneMinusKr := 701 / 1000, oneMinusKb := 443 / 500,
      crToG := 209599 / 587000, cbToG := 25251 / 146750 } ∧
  coefficients .exactRational .bt709 =
    { kr := 1063 / 5000, kb := 361 / 5000, kg := 447 / 625, lumaScale := 219 / 64, lumaOffset := 64,
      chromaScale := 7 / 4, chromaOffset := 512, alphaScale := 292 / 85, alphaOffset := 64,
      krOver1mKb := 1063 / 4639, kgOver1mKb := 3576 / 4639, kbOver1mKr := 361 / 3937, kgOver1mKr := 3576 / 3937,
      oneMinusKr := 3937 / 5000, oneMinusKb := 4639 / 5000,
      crToG := 4185031 / 17880000, cbToG := 1674679 / 17880000 } ∧
  cgain .exactRational (coefficients .exactRational .bt601) = 7 / 8 ∧
  cgain .exactRational (coefficients .exactRational .bt709) = 7 / 8

/-- R117: the forward ratios sum to 1, so a grey has exactly no chroma; the chroma brackets are `(B - Y')/(1-Kb)` and
`(R - Y')/(1-Kr)`; and the inverse formulas return R, G, B from the unquantised values. -/
def Obligations.ProfilesInvertExactlyBeforeQuantisation : Prop :=
  ∀ (std : Standard) (r g b : Q),
    let c := coefficients .exactRational std
    let y := c.kr * r + c.kg * g + c.kb * b
    let cb := -c.krOver1mKb * r - c.kgOver1mKb * g + b
    let cr := r - c.kgOver1mKr * g - c.kbOver1mKr * b
    c.krOver1mKb + c.kgOver1mKb = 1 ∧ c.kgOver1mKr + c.kbOver1mKr = 1 ∧
    (r = g → g = b → cb = 0 ∧ cr = 0) ∧
    cb = (b - y) / (1 - c.kb) ∧ cr = (r - y) / (1 - c.kr) ∧
    rReal .exactRational c y cr = r ∧ gReal .exactRational c y cb cr = g ∧ bReal .exactRational c y cb = b

/-! ## ForwardConverter -/

/-- R142: under ARITH = exact rationals FWD.Y, FWD.CB, FWD.CR and FWD.A answer the integer-only forms, whose numerators
are positive, and change nothing else. -/
def Obligations.ForwardChannelsAreTheIntegerForms : Prop :=
  (∀ (s : State) (r g b : Byte), s.config.arith = .exactRational → s.std = .bt601 →
    let ny := 4096000 + 65481 * (r.toNat : Int) + 128553 * g.toNat + 24966 * b.toNat
    let ncb := 3629056 - 2093 * (r.toNat : Int) - 4109 * g.toNat + 6202 * b.toNat
    let ncr := 2871296 + 4907 * (r.toNat : Int) - 4109 * g.toNat - 798 * b.toNat
    0 < ny ∧ 0 < ncb ∧ 0 < ncr ∧
    exec (.fwdY r g b) s = .next { s with result := .field10 (BitVec.ofInt 10 (ny / 64000)) } ∧
    exec (.fwdCb r g b) s = .next { s with result := .field10 (BitVec.ofInt 10 (ncb / 7088)) } ∧
    exec (.fwdCr r g b) s = .next { s with result := .field10 (BitVec.ofInt 10 (ncr / 5608)) }) ∧
  (∀ (s : State) (r g b : Byte), s.config.arith = .exactRational → s.std = .bt709 →
    let ny := 20480000 + 232797 * (r.toNat : Int) + 783144 * g.toNat + 79059 * b.toNat
    let ncb := 19001344 - 7441 * (r.toNat : Int) - 25032 * g.toNat + 32473 * b.toNat
    let ncr := 16125952 + 27559 * (r.toNat : Int) - 25032 * g.toNat - 2527 * b.toNat
    0 < ny ∧ 0 < ncb ∧ 0 < ncr ∧
    exec (.fwdY r g b) s = .next { s with result := .field10 (BitVec.ofInt 10 (ny / 320000)) } ∧
    exec (.fwdCb r g b) s = .next { s with result := .field10 (BitVec.ofInt 10 (ncb / 37112)) } ∧
    exec (.fwdCr r g b) s = .next { s with result := .field10 (BitVec.ofInt 10 (ncr / 31496)) }) ∧
  (∀ (s : State) (a : Byte), s.config.arith = .exactRational →
    exec (.fwdA a) s = .next { s with result := .field10 (BitVec.ofInt 10 ((5440 + 292 * (a.toNat : Int)) / 85)) })

/-- R138: under exact arithmetic the real values and the 10-bit results of the forward operations stay in their ranges,
and the result is the floor of the real value: it is never masked or saturated. -/
def Obligations.ForwardResultsStayInRange : Prop :=
  ∀ (std : Standard) (r g b a : Byte),
    let e := Arith.exactRational
    let c := coefficients e std
    64 ≤ yReal e c r g b ∧ yReal e c r g b ≤ 936578125 / 1000000 ∧
    288875 / 1000 ≤ cbReal e c r g b ∧ cbReal e c r g b ≤ 735125 / 1000 ∧
    288875 / 1000 ≤ crReal e c r g b ∧ crReal e c r g b ≤ 735125 / 1000 ∧
    64 ≤ aReal e c a ∧ aReal e c a ≤ 940 ∧
    ((fwdY e std r g b).toNat : Int) = (yReal e c r g b).floor ∧
    ((fwdCb e std r g b).toNat : Int) = (cbReal e c r g b).floor ∧
    ((fwdCr e std r g b).toNat : Int) = (crReal e c r g b).floor ∧
    ((fwdA e std a).toNat : Int) = (aReal e c a).floor ∧
    64 ≤ (fwdY e std r g b).toNat ∧ (fwdY e std r g b).toNat ≤ 936 ∧
    288 ≤ (fwdCb e std r g b).toNat ∧ (fwdCb e std r g b).toNat ≤ 735 ∧
    288 ≤ (fwdCr e std r g b).toNat ∧ (fwdCr e std r g b).toNat ≤ 735 ∧
    64 ≤ (fwdA e std a).toNat ∧ (fwdA e std a).toNat ≤ 940

/-- R135: the three fields stand in their bits and bits 31:30 are 0. -/
def Obligations.PackPlacesItsFields : Prop :=
  ∀ (s : State) (a c y : Field10), ∃ w : Word32,
    exec (.pack a c y) s = .next { s with result := .word32 w } ∧
    w = (a.setWidth 32 <<< 20) ||| (c.setWidth 32 <<< 10) ||| y.setWidth 32 ∧
    w.extractLsb' 30 2 = 0 ∧ w.extractLsb' 20 10 = a ∧ w.extractLsb' 10 10 = c ∧ w.extractLsb' 0 10 = y

/-- R136: a Word64 is packed from the pair's own component results, chroma from the first pixel only; the second
pixel's colour counts only through its luma. -/
def Obligations.PairTakesChromaFromItsFirstPixel : Prop :=
  (∀ (s : State) (p1 p2 : Pixel), ∃ (y1 y2 cb cr a1 a2 : Field10) (w1 w2 : Word32),
    exec (.fwdY p1.r p1.g p1.b) s = .next { s with result := .field10 y1 } ∧
    exec (.fwdY p2.r p2.g p2.b) s = .next { s with result := .field10 y2 } ∧
    exec (.fwdCb p1.r p1.g p1.b) s = .next { s with result := .field10 cb } ∧
    exec (.fwdCr p1.r p1.g p1.b) s = .next { s with result := .field10 cr } ∧
    exec (.fwdA p1.a) s = .next { s with result := .field10 a1 } ∧
    exec (.fwdA p2.a) s = .next { s with result := .field10 a2 } ∧
    exec (.pack a1 cb y1) s = .next { s with result := .word32 w1 } ∧
    exec (.pack a2 cr y2) s = .next { s with result := .word32 w2 } ∧
    exec (.fwdPair p1 p2) s = .next { s with result := .word64 (w1 ++ w2) }) ∧
  (∀ (s : State) (p1 p2 q2 : Pixel), exec (.fwdY p2.r p2.g p2.b) s = exec (.fwdY q2.r q2.g q2.b) s →
    p2.a = q2.a → exec (.fwdPair p1 p2) s = exec (.fwdPair p1 q2) s)

/-- R137: FWD.BATCH is FWD.PAIR on its four pairs, in pair order. -/
def Obligations.BatchConvertsItsFourPairs : Prop :=
  ∀ (s : State) (p : Batch), ∃ w0 w1 w2 w3 : Word64,
    exec (.fwdPair p.p0 p.p1) s = .next { s with result := .word64 w0 } ∧
    exec (.fwdPair p.p2 p.p3) s = .next { s with result := .word64 w1 } ∧
    exec (.fwdPair p.p4 p.p5) s = .next { s with result := .word64 w2 } ∧
    exec (.fwdPair p.p6 p.p7) s = .next { s with result := .word64 w3 } ∧
    exec (.fwdBatch p) s = .next { s with result := .words w0 w1 w2 w3 }

/-- R97: two black transparent pixels under BT.601. -/
def Obligations.BlackPairIsTheWorkedExample : Prop :=
  ∀ s : State, s.config.arith = .exactRational → s.std = .bt601 → ∃ w : Word64,
    exec (.fwdPair ⟨0, 0, 0, 0⟩ ⟨0, 0, 0, 0⟩) s = .next { s with result := .word64 w } ∧
    be64Bytes w = [4, 8, 0, 64, 4, 8, 0, 64]

/-- In any number system no word of the forward converter is the marker, since its four zero bits are zero; under exact
rationals the first byte of each half lies in 0x04 to 0x3A (R85, R92). -/
def Obligations.ConverterNeverMakesTheMarker : Prop :=
  ∀ (s : State) (p1 p2 : Pixel), ∃ w : Word64,
    exec (.fwdPair p1 p2) s = .next { s with result := .word64 w } ∧
    w ≠ 0xFEFEFEFEFEFEFEFE ∧ w.extractLsb' 62 2 = 0 ∧ w.extractLsb' 30 2 = 0 ∧
    (s.config.arith = .exactRational →
      0x04 ≤ (w.extractLsb' 56 8).toNat ∧ (w.extractLsb' 56 8).toNat ≤ 0x3A ∧
      0x04 ≤ (w.extractLsb' 24 8).toNat ∧ (w.extractLsb' 24 8).toNat ≤ 0x3A)

/-- In the number system of any implementation the converters run, answer a result of their kind and change nothing
else (R8, R119; spec/93 U10; the values are free, log entry 2). -/
def Obligations.ConvertersRunInAnyNumberSystem : Prop :=
  ∀ (s : State) (r g b a : Byte) (p1 p2 : Pixel) (p : Batch) (v : Field10) (y cb cr : Q) (w w0 w1 w2 w3 : Word64),
    (∃ f, exec (.fwdY r g b) s = .next { s with result := .field10 f }) ∧
    (∃ f, exec (.fwdCb r g b) s = .next { s with result := .field10 f }) ∧
    (∃ f, exec (.fwdCr r g b) s = .next { s with result := .field10 f }) ∧
    (∃ f, exec (.fwdA a) s = .next { s with result := .field10 f }) ∧
    (∃ x, exec (.fwdPair p1 p2) s = .next { s with result := .word64 x }) ∧
    (∃ x0 x1 x2 x3, exec (.fwdBatch p) s = .next { s with result := .words x0 x1 x2 x3 }) ∧
    (∃ q, exec (.invY v) s = .next { s with result := .rational q }) ∧
    (∃ q, exec (.invUv v) s = .next { s with result := .rational q }) ∧
    (∃ q, exec (.invA v) s = .next { s with result := .rational q }) ∧
    (∃ cr' cg' cb', exec (.invRgb y cb cr) s = .next { s with result := .rgb cr' cg' cb' }) ∧
    (∃ q1 q2, exec (.invPair w) s = .next { s with result := .pixels q1 q2 }) ∧
    (∃ q, exec (.invBatch w0 w1 w2 w3) s = .next { s with result := .batch q })

/-! ## InverseConverter -/

/-- R160: UNPACK shifts and masks, does not read bits 31:30, and returns what PACK packed. -/
def Obligations.UnpackShiftsAndMasks : Prop :=
  (∀ (s : State) (w : Word32),
    exec (.unpack w) s =
      .next { s with result := .fields ((w >>> 20).setWidth 10) ((w >>> 10).setWidth 10) (w.setWidth 10) } ∧
    exec (.unpack w) s = exec (.unpack (w &&& 0x3FFFFFFF)) s) ∧
  (∀ (s : State) (a c y : Field10) (w : Word32),
    exec (.pack a c y) s = .next { s with result := .word32 w } →
    exec (.unpack w) s = .next { s with result := .fields a c y })

/-- R161, R162, R163: the de-scaled values, under either profile and ARITH = exact rationals. -/
def Obligations.DescaledValuesAreExact : Prop :=
  ∀ (s : State) (v : Field10), s.config.arith = .exactRational →
    exec (.invY v) s = .next { s with result := .rational (((v.toNat : Q) - 64) * 64 / 219) } ∧
    exec (.invUv v) s = .next { s with result := .rational (((v.toNat : Q) - 512) * 8 / 7) } ∧
    exec (.invA v) s = .next { s with result := .rational (((v.toNat : Q) - 64) * 85 / 292) }

/-- R164: each channel is the rounded, clamped real value, for every rational operand and every tie rule, under ARITH =
exact rationals; INV.RGB has a next state in any number system. -/
def Obligations.InvRgbRoundsTheClampedValues : Prop :=
  ∀ (s : State) (y cb cr : Q), ∃ r g b : Byte,
    exec (.invRgb y cb cr) s = .next { s with result := .rgb r g b } ∧
    (s.config.arith = .exactRational → s.std = .bt601 →
      roundsTo s.config.roundTie r (y + (1 - 299 / 1000) * cr) ∧
      roundsTo s.config.roundTie g
        (y - (299 / 1000 * (1 - 299 / 1000) / (587 / 1000)) * cr - (114 / 1000 * (1 - 114 / 1000) / (587 / 1000)) * cb) ∧
      roundsTo s.config.roundTie b (y + (1 - 114 / 1000) * cb)) ∧
    (s.config.arith = .exactRational → s.std = .bt709 →
      roundsTo s.config.roundTie r (y + (1 - 2126 / 10000) * cr) ∧
      roundsTo s.config.roundTie g
        (y - (2126 / 10000 * (1 - 2126 / 10000) / (7152 / 10000)) * cr -
          (722 / 10000 * (1 - 722 / 10000) / (7152 / 10000)) * cb) ∧
      roundsTo s.config.roundTie b (y + (1 - 722 / 10000) * cb))

/-- R171: INV.PAIR answers the integer-only forms on every 64-bit word, under exact rationals and the default tie
rule. -/
def Obligations.InvPairIsTheIntegerForms : Prop :=
  ∀ (s : State) (w : Word64), s.config.arith = .exactRational → s.config.roundTie = .halfUp →
    let y1 : Int := (w.extractLsb' 32 10).toNat - 64
    let u : Int := (w.extractLsb' 42 10).toNat - 512
    let t1 : Int := (w.extractLsb' 52 10).toNat - 64
    let y2 : Int := (w.extractLsb' 0 10).toNat - 64
    let v : Int := (w.extractLsb' 10 10).toNat - 512
    let t2 : Int := (w.extractLsb' 20 10).toNat - 64
    (s.std = .bt601 →
      exec (.invPair w) s = .next (s.withResult (.pixels
          ⟨rc (56000 * y1 + 153519 * v) 191625, rc (32872000 * y1 - 45902181 * v - 22119876 * u) 112483875,
            rc (56000 * y1 + 194034 * u) 191625, rc (85 * t1) 292⟩
          ⟨rc (56000 * y2 + 153519 * v) 191625, rc (32872000 * y2 - 45902181 * v - 22119876 * u) 112483875,
            rc (56000 * y2 + 194034 * u) 191625, rc (85 * t2) 292⟩))) ∧
    (s.std = .bt709 →
      exec (.invPair w) s = .next (s.withResult (.pixels
          ⟨rc (280000 * y1 + 862203 * v) 958125, rc (333760000 * y1 - 305507263 * v - 122251567 * u) 1142085000,
            rc (280000 * y1 + 1015941 * u) 958125, rc (85 * t1) 292⟩
          ⟨rc (280000 * y2 + 862203 * v) 958125, rc (333760000 * y2 - 305507263 * v - 122251567 * u) 1142085000,
            rc (280000 * y2 + 1015941 * u) 958125, rc (85 * t2) 292⟩)))

/-- R84: a word with any of its four top bits set is converted exactly as the same word with them cleared. -/
def Obligations.TopBitsAreIgnoredOnDecode : Prop :=
  ∀ (s : State) (w : Word64), ∃ q1 q2 : Pixel,
    exec (.invPair w) s = .next { s with result := .pixels q1 q2 } ∧
    exec (.invPair (w &&& 0x3FFFFFFF3FFFFFFF)) s = .next { s with result := .pixels q1 q2 }

/-- R168: INV.BATCH is INV.PAIR on its four words, in pair order. -/
def Obligations.InvBatchIsFourPairs : Prop :=
  ∀ (s : State) (w0 w1 w2 w3 : Word64), ∃ p : Batch,
    exec (.invPair w0) s = .next { s with result := .pixels p.p0 p.p1 } ∧
    exec (.invPair w1) s = .next { s with result := .pixels p.p2 p.p3 } ∧
    exec (.invPair w2) s = .next { s with result := .pixels p.p4 p.p5 } ∧
    exec (.invPair w3) s = .next { s with result := .pixels p.p6 p.p7 } ∧
    exec (.invBatch w0 w1 w2 w3) s = .next { s with result := .batch p }

/-- R169: under exact rationals alpha comes back exactly, for every alpha, under either profile and every tie rule. -/
def Obligations.AlphaRoundTripIsExact : Prop :=
  ∀ (s : State) (a : Byte), s.config.arith = .exactRational → ∃ (f : Field10) (q : Q),
    exec (.fwdA a) s = .next { s with result := .field10 f } ∧
    exec (.invA f) s = .next { s with result := .rational q } ∧
    ∀ tie : RoundTie, toChannel tie q = a

/-- R170: under exact rationals the first pixel of every pair comes back within 1 per channel, red and blue never
larger, green never smaller, green exactly under BT.709; alpha of both pixels exactly; and a second pixel of the first
one's colour comes back as the first one does. -/
def Obligations.ColourRoundTripLosesAtMostOne : Prop :=
  ∀ (s : State) (p1 p2 : Pixel), s.config.arith = .exactRational → ∃ (w : Word64) (q1 q2 : Pixel),
    exec (.fwdPair p1 p2) s = .next { s with result := .word64 w } ∧
    exec (.invPair w) s = .next { s with result := .pixels q1 q2 } ∧
    (q1.r.toNat = p1.r.toNat ∨ q1.r.toNat + 1 = p1.r.toNat) ∧
    (q1.g.toNat = p1.g.toNat ∨ q1.g.toNat = p1.g.toNat + 1) ∧
    (q1.b.toNat = p1.b.toNat ∨ q1.b.toNat + 1 = p1.b.toNat) ∧
    (s.std = .bt709 → q1.g = p1.g) ∧
    q1.a = p1.a ∧ q2.a = p2.a ∧
    (p2.r = p1.r → p2.g = p1.g → p2.b = p1.b → q2.r = q1.r ∧ q2.g = q1.g ∧ q2.b = q1.b)

/-! ## RunLengthEncoder -/

/-- R190: RLE.INIT clears ENC.MC and ENC.WC; ENC.LW is left without a value, so nothing is said of it, nor of the model's
own fields (log entries 7, 9). -/
def Obligations.RleInitClearsTheEncoder : Prop :=
  ∀ s : State, ∃ (lw : Word64) (ended : Bool) (r : Result), exec .rleInit s =
    .next { s with encLw := lw, encMc := 0, encWc := 0, encFinished := ended, result := r }

/-- R192: RLE.FLUSH writes the bytes of the flush table at ENC.WC, moves ENC.WC past them, and changes no other byte
and no other register. -/
def Obligations.FlushWritesThePendingRun : Prop :=
  ∀ s : State, s.comp.mem.wf = true →
    let bytes : List Byte :=
      if s.encMc.toNat ≤ 3 then (List.replicate s.encMc.toNat (be64Bytes s.encLw)).flatten
      else be64Bytes 0xFEFEFEFEFEFEFEFE ++ be64Bytes s.encMc ++ be64Bytes s.encLw
    (s.encMc ≠ 0 → s.encWc.toNat + bytes.length ≤ s.comp.len.toNat) →
    bytes.length = (if s.encMc.toNat ≤ 3 then 8 * s.encMc.toNat else 24) ∧
    ∃ (m : Memory) (r : Result),
      exec .rleFlush s = .next { s with
        comp := { len := s.comp.len, mem := m }, encWc := s.encWc + BitVec.ofNat 64 bytes.length,
        result := r } ∧
      readBytes m s.encWc.toNat bytes.length = bytes ∧
      ∀ a, a < s.encWc.toNat ∨ s.encWc.toNat + bytes.length ≤ a → readByte m a = readByte s.comp.mem a

/-- R191: the three cases of RLE.PUSH, in a stream that has not been ended (R321); R26 says that ENC.MC cannot be at its
largest value when a repeat is counted. -/
def Obligations.PushCountsOrFlushes : Prop :=
  ∀ (s : State) (word : Word64), s.encFinished = false →
    (s.encMc = 0 →
      ∃ r : Result, exec (.rlePush word) s = .next { s with encLw := word, encMc := 1, result := r }) ∧
    (s.encMc ≠ 0 → word = s.encLw → s.encMc.toNat ≠ 2 ^ 64 - 1 →
      ∃ r : Result, exec (.rlePush word) s = .next { s with encMc := s.encMc + 1, result := r }) ∧
    (s.encMc ≠ 0 → word ≠ s.encLw → s.comp.mem.wf = true →
      let bytes : List Byte :=
        if s.encMc.toNat ≤ 3 then (List.replicate s.encMc.toNat (be64Bytes s.encLw)).flatten
        else be64Bytes 0xFEFEFEFEFEFEFEFE ++ be64Bytes s.encMc ++ be64Bytes s.encLw
      s.encWc.toNat + bytes.length ≤ s.comp.len.toNat →
      ∃ (m : Memory) (r : Result),
        exec (.rlePush word) s = .next { s with
          comp := { len := s.comp.len, mem := m }, encLw := word, encMc := 1,
          encWc := s.encWc + BitVec.ofNat 64 bytes.length, result := r } ∧
        readBytes m s.encWc.toNat bytes.length = bytes ∧
        ∀ a, a < s.encWc.toNat ∨ s.encWc.toNat + bytes.length ≤ a → readByte m a = readByte s.comp.mem a)

/-- The model's choice where R26 says that the case cannot arise (log entry 12): a repeat counted with ENC.MC at its
largest value wraps to 0. -/
def Obligations.RepeatAtTheTopOfTheCountWraps : Prop :=
  ∀ (s : State) (word : Word64), s.encFinished = false → s.encMc.toNat = 2 ^ 64 - 1 → word = s.encLw →
    ∃ r : Result, exec (.rlePush word) s = .next { s with encMc := 0, result := r }

/-- R193: RLE.FINISH flushes, clears ENC.MC and answers ENC.WC; a second RLE.FINISH writes nothing. -/
def Obligations.FinishFlushesAndAnswersTheLength : Prop :=
  ∀ s : State, s.comp.mem.wf = true →
    let bytes : List Byte :=
      if s.encMc.toNat ≤ 3 then (List.replicate s.encMc.toNat (be64Bytes s.encLw)).flatten
      else be64Bytes 0xFEFEFEFEFEFEFEFE ++ be64Bytes s.encMc ++ be64Bytes s.encLw
    let total : Len := s.encWc + BitVec.ofNat 64 bytes.length
    (s.encMc ≠ 0 → s.encWc.toNat + bytes.length ≤ s.comp.len.toNat) →
    ∃ (m : Memory) (ended : Bool),
      let t : State := { s with
        comp := { len := s.comp.len, mem := m }, encMc := 0, encWc := total, encFinished := ended,
        result := .byteCount total }
      exec .rleFinish s = .next t ∧
      readBytes m s.encWc.toNat bytes.length = bytes ∧
      (∀ a, a < s.encWc.toNat ∨ s.encWc.toNat + bytes.length ≤ a → readByte m a = readByte s.comp.mem a) ∧
      exec .rleFinish t = .next t

/-- The model's own mark of an ended stream (log entry 9), for R321 and spec/93 U4: RLE.FINISH sets it, RLE.INIT clears
it, ENCODE leaves it as it is or set, every other instruction keeps it; while it is set RLE.PUSH is refused. -/
def Obligations.PushAfterFinishIsRefused : Prop :=
  (∀ (s : State) (word : Word64), s.encFinished = true → exec (.rlePush word) s = .refused .pushAfterFinish) ∧
  (∀ (i : Instr) (s t : State), exec i s = .next t →
    (i = .rleFinish → t.encFinished = true) ∧ (i = .rleInit → t.encFinished = false) ∧
    ((∃ w h n c, i = .encode w h n c) → t.encFinished = s.encFinished ∨ t.encFinished = true) ∧
    (i ≠ .rleFinish → i ≠ .rleInit → (∀ w h n c, i ≠ .encode w h n c) → t.encFinished = s.encFinished))

/-- R199 and spec/93 U5: a flush that does not fit COMP has no meaning. -/
def Obligations.FlushPastTheEndIsRefused : Prop :=
  ∀ s : State, s.encMc ≠ 0 →
    s.comp.len.toNat < s.encWc.toNat + (if s.encMc.toNat ≤ 3 then 8 * s.encMc.toNat else 24) →
    exec .rleFlush s = .refused (.outsideBuffer .comp) ∧
    exec .rleFinish s = .refused (.outsideBuffer .comp) ∧
    ∀ word : Word64, s.encFinished = false → word ≠ s.encLw →
      exec (.rlePush word) s = .refused (.outsideBuffer .comp)

/-- R194: between RLE.INIT and RLE.FINISH the encoder writes, from offset 0, the records of the maximal runs of the
words pushed, and no other byte; `runsOf` is that cut into maximal runs. -/
def Obligations.EncoderWritesMaximalRuns : Prop :=
  (∀ words : List Word64,
    (runsOf words).flatMap (fun run => List.replicate run.2 run.1) = words ∧
    (∀ run ∈ runsOf words, 1 ≤ run.2) ∧
    (runsOf words).IsChain (fun a b => a.1 ≠ b.1)) ∧
  (∀ (s : State) (words : List Word64), s.comp.mem.wf = true → 8 * words.length ≤ s.comp.len.toNat →
    ∃ t : State, execAll (encoderRun words) s = .next t ∧
      t.result = .byteCount t.encWc ∧ t.encWc.toNat = (streamOf words).length ∧ t.encMc = 0 ∧
      t.comp.len = s.comp.len ∧
      readBytes t.comp.mem 0 (streamOf words).length = streamOf words ∧
      ∀ a, (streamOf words).length ≤ a → readByte t.comp.mem a = readByte s.comp.mem a)

/-- R195: the byte count is 8 bytes a word for runs up to 3 and 24 for longer ones, a multiple of 8, at most 8 bytes a
word pushed, and equal to that exactly when no run is longer than 3. -/
def Obligations.EncodedSizeIsAtMostLiteral : Prop :=
  ∀ (s : State) (words : List Word64), s.comp.mem.wf = true → 8 * words.length ≤ s.comp.len.toNat →
    ∃ t : State, execAll (encoderRun words) s = .next t ∧
      t.encWc.toNat = ((runsOf words).map (fun run => if run.2 ≤ 3 then 8 * run.2 else 24)).sum ∧
      t.encWc.toNat % 8 = 0 ∧ t.encWc.toNat ≤ 8 * words.length ∧
      (t.encWc.toNat = 8 * words.length ↔ ∀ run ∈ runsOf words, run.2 ≤ 3)

/-- R201: what was pushed is what is read, until the end of the stream, if no word is the marker. -/
def Obligations.DecoderReturnsWhatWasPushed : Prop :=
  ∀ (s : State) (words : List Word64), s.comp.mem.wf = true → 8 * words.length ≤ s.comp.len.toNat →
    0xFEFEFEFEFEFEFEFE ∉ words →
    ∃ t d u : State, execAll (encoderRun words) s = .next t ∧ exec (.rldInit t.encWc) t = .next d ∧
      readsFrom (words.length + 1) d = some (words.map some ++ [none], u)

/-! ## RunLengthDecoder -/

/-- R220: RLD.INIT starts at the first byte of a stream of the given length. -/
def Obligations.RldInitStartsTheStream : Prop :=
  ∀ (s : State) (length : Len), ∃ r : Result, exec (.rldInit length) s =
    .next { s with decLen := length, decRo := 0, decRr := 0, result := r }

/-- R221, R222, R224, R225: RLD.READ by its steps, in their order. -/
def Obligations.ReadFollowsItsSteps : Prop :=
  ∀ s : State,
    let remain := s.decLen.toNat - s.decRo.toNat
    let w := wordIn s.comp.mem s.decRo.toNat
    let l := wordIn s.comp.mem (s.decRo.toNat + 8)
    (remain < 8 → exec .rldRead s = .next { s with result := .sample none }) ∧
    (8 ≤ remain → s.decRo.toNat + 8 ≤ s.comp.len.toNat → s.decRr ≠ 0 →
      exec .rldRead s = .next { s with
        decRr := s.decRr - 1, decRo := if s.decRr = 1 then s.decRo + 8 else s.decRo,
        result := .sample (some w) }) ∧
    (24 ≤ remain → s.decRo.toNat + 24 ≤ s.comp.len.toNat → s.decRr = 0 → w = 0xFEFEFEFEFEFEFEFE →
      (l = 0 → exec .rldRead s = .refused .runLengthZero) ∧
      (l ≠ 0 → exec .rldRead s = .next { s with
        decRr := l - 1,
        decRo := if l = 1 ∧ s.config.run1Deliveries = .once then s.decRo + 24 else s.decRo + 16,
        result := .sample (some (wordIn s.comp.mem (s.decRo.toNat + 16))) })) ∧
    (8 ≤ remain → s.decRo.toNat + 8 ≤ s.comp.len.toNat → s.decRr = 0 →
      (remain < 24 ∨ w ≠ 0xFEFEFEFEFEFEFEFE) →
      exec .rldRead s = .next { s with decRo := s.decRo + 8, result := .sample (some w) })

/-- RLD.READ is refused when a word it needs lies outside COMP, which can be only where RLD.INIT was given more than
COMP's length (R65, R199; log entry 11). -/
def Obligations.ReadPastTheEndIsRefused : Prop :=
  ∀ s : State,
    let remain := s.decLen.toNat - s.decRo.toNat
    (8 ≤ remain → s.comp.len.toNat < s.decRo.toNat + 8 → exec .rldRead s = .refused (.outsideBuffer .comp)) ∧
    (24 ≤ remain → s.decRo.toNat + 8 ≤ s.comp.len.toNat → s.comp.len.toNat < s.decRo.toNat + 24 → s.decRr = 0 →
      wordIn s.comp.mem s.decRo.toNat = 0xFEFEFEFEFEFEFEFE →
      exec .rldRead s =
        if s.decRo.toNat + 16 ≤ s.comp.len.toNat ∧ wordIn s.comp.mem (s.decRo.toNat + 8) = 0 then
          .refused .runLengthZero
        else .refused (.outsideBuffer .comp))

/-- R226: how often each record delivers its value, and how far it moves DEC.RO: inside a run it stands at the value. -/
def Obligations.RecordsDeliverTheirLength : Prop :=
  ∀ s : State, s.decRr = 0 →
    let remain := s.decLen.toNat - s.decRo.toNat
    let w := wordIn s.comp.mem s.decRo.toNat
    let l := wordIn s.comp.mem (s.decRo.toNat + 8)
    let v := wordIn s.comp.mem (s.decRo.toNat + 16)
    let past : State := { s with decRo := s.decRo + 24, result := .sample (some v) }
    let inside (k : Nat) : State :=
      { s with decRo := s.decRo + 16, decRr := l - BitVec.ofNat 64 k, result := .sample (some v) }
    (8 ≤ remain → s.decRo.toNat + 8 ≤ s.comp.len.toNat → (remain < 24 ∨ w ≠ 0xFEFEFEFEFEFEFEFE) →
      readsFrom 1 s = some ([some w], { s with decRo := s.decRo + 8, result := .sample (some w) })) ∧
    (24 ≤ remain → s.decRo.toNat + 24 ≤ s.comp.len.toNat → w = 0xFEFEFEFEFEFEFEFE →
      (2 ≤ l.toNat → readsFrom l.toNat s = some (List.replicate l.toNat (some v), past) ∧
        ∀ k, 1 ≤ k → k < l.toNat → readsFrom k s = some (List.replicate k (some v), inside k)) ∧
      (l = 1 → s.config.run1Deliveries = .twice → readsFrom 1 s = some ([some v], inside 1) ∧
        ((remain < 40 ∨ v ≠ 0xFEFEFEFEFEFEFEFE) → readsFrom 2 s = some ([some v, some v], past))) ∧
      (l = 1 → s.config.run1Deliveries = .once → readsFrom 1 s = some ([some v], past)) ∧
      (l = 0 → exec .rldRead s = .refused .runLengthZero))

/-- R88: at a record boundary RLD.READ runs the record that the stream's next bytes decode to; with fewer than 8
bytes there is no record. -/
def Obligations.ReadRunsTheRecordInTheStream : Prop :=
  ∀ s : State, s.decRr = 0 →
    let n := min 24 (s.decLen.toNat - s.decRo.toNat)
    s.decRo.toNat + n ≤ s.comp.len.toNat →
    (∀ (i : Instr) (rest : List Byte),
      decodeRecord (readBytes s.comp.mem s.decRo.toNat n) = .ok (i, rest) → exec .rldRead s = exec i s) ∧
    (∀ e : DecodeError, decodeRecord (readBytes s.comp.mem s.decRo.toNat n) = .error e →
      exec .rldRead s = .next { s with result := .sample none })

/-- What a LIT and a RUN record do when the decoder meets them at a record boundary (R87, R226; log entry 10 for
RUN1_DELIVERIES). -/
def Obligations.RecordsDeliverAtTheBoundary : Prop :=
  ∀ (s : State) (l : Count) (v : Word64),
    exec (.lit v) s = .next { s with decRo := s.decRo + 8, result := .sample (some v) } ∧
    (l ≠ 0 → exec (.run l v) s = .next { s with
      decRr := l - 1,
      decRo := if l = 1 ∧ s.config.run1Deliveries = .once then s.decRo + 24 else s.decRo + 16,
      result := .sample (some v) }) ∧
    (l = 0 → exec (.run l v) s = .refused .runLengthZero)

/-! ## Pipeline -/

/-- R281, R282: a bad width fails first, then a bad length, before any buffer access; only the descriptor and STATUS
are written (codes, STATUS.OUT_LEN and the frame: R284, R286); and nothing else gives these two codes. That the call
writes its operands into the CMD registers even when a check fails is the model's choice (log entry 16). -/
def Obligations.BadDescriptorsFailBeforeAnyAccess : Prop :=
  ∀ (s : State) (w h : Dim) (inLen outCap : Len),
    let called (op : Code) (err : BitVec 2) (r : Result) : State := { s with
      cmdOp := op, cmdWidth := w, cmdHeight := h, cmdInLen := inLen, cmdOutCap := outCap,
      statusErr := err, statusOutLen := 0, result := r }
    let n := w.toNat * h.toNat * 4
    (w.toNat % 8 ≠ 0 →
      (∃ r, exec (.encode w h inLen outCap) s = .next (called 0x50 1 r)) ∧
      (∃ r, exec (.decode w h inLen outCap) s = .next (called 0x51 1 r))) ∧
    (w.toNat % 8 = 0 → (inLen.toNat ≠ n ∨ outCap.toNat < n) →
      ∃ r, exec (.encode w h inLen outCap) s = .next (called 0x50 2 r)) ∧
    (w.toNat % 8 = 0 → outCap.toNat ≠ n → ∃ r, exec (.decode w h inLen outCap) s = .next (called 0x51 2 r)) ∧
    (∀ t, exec (.encode w h inLen outCap) s = .next t →
      (t.statusErr = 1 → w.toNat % 8 ≠ 0) ∧ (t.statusErr = 2 → inLen.toNat ≠ n ∨ outCap.toNat < n)) ∧
    (∀ t, exec (.decode w h inLen outCap) s = .next t →
      (t.statusErr = 1 → w.toNat % 8 ≠ 0) ∧ (t.statusErr = 2 → outCap.toNat ≠ n))

/-- ENCODE on a good descriptor succeeds: COMP holds the stream of the frame's words from offset 0, STATUS its length,
and nothing else of the three buffers changes (R251, R252, R253). What it names of PROFILE.STD, ENC.MC, ENC.WC, PIPE.BI
after the call is the model's choice, since spec/93 U13 leaves it at any value (log entry 19); the CMD registers and the
buffer lengths follow log entries 16 and 3, the end mark and the result field 9 and 7. -/
def Obligations.EncodeWritesTheStreamOfTheFrame : Prop :=
  ∀ (s : State) (w h : Dim) (inLen outCap : Len), s.comp.mem.wf = true →
    let n := w.toNat * h.toNat * 4
    w.toNat % 8 = 0 → inLen.toNat = n → n ≤ outCap.toNat →
    let std : Standard := if 720 ≤ h.toNat then .bt709 else .bt601
    let stream := streamOf (frameWords s.config.arith std s.rgbaIn.mem (n / 8))
    ∃ (lw : Word64) (m : Memory),
      exec (.encode w h inLen outCap) s = .next { s with
        cmdOp := 0x50, cmdWidth := w, cmdHeight := h, cmdInLen := inLen, cmdOutCap := outCap,
        std := std, encLw := lw, encMc := 0, encWc := BitVec.ofNat 64 stream.length, encFinished := true,
        pipeBi := BitVec.ofNat 64 (n / 32),
        rgbaIn := { len := inLen, mem := s.rgbaIn.mem }, comp := { len := outCap, mem := m },
        statusErr := 0, statusOutLen := BitVec.ofNat 64 stream.length, result := .noResult } ∧
      stream.length ≤ n ∧ readBytes m 0 stream.length = stream ∧
      ∀ a, stream.length ≤ a → readByte m a = readByte s.comp.mem a

/-- R254: the size of ENCODE's output; no byte of COMP is written behind it. -/
def Obligations.EncodeOutputIsBounded : Prop :=
  ∀ (s : State) (w h : Dim) (inLen outCap : Len), s.comp.mem.wf = true →
    let n := w.toNat * h.toNat * 4
    w.toNat % 8 = 0 → inLen.toNat = n → n ≤ outCap.toNat →
    ∃ t : State, exec (.encode w h inLen outCap) s = .next t ∧ t.statusErr = 0 ∧
      t.statusOutLen.toNat ≤ n ∧
      (t.statusOutLen.toNat = n ↔
        ∀ run ∈ runsOf (frameWords s.config.arith (if 720 ≤ h.toNat then .bt709 else .bt601) s.rgbaIn.mem (n / 8)),
          run.2 ≤ 3) ∧
      (n ≠ 0 → 24 ≤ t.statusOutLen.toNat) ∧
      ∀ a, n ≤ a → readByte t.comp.mem a = readByte s.comp.mem a

/-- DECODE on a good descriptor succeeds when the stream delivers enough words, and RGBA_OUT holds what INV.PAIR makes of
them; whatever remains of the stream is ignored (R255 to R257, R259). What it names of PROFILE.STD, DEC.LEN, DEC.RO, DEC.RR,
PIPE.BI after the call is the model's choice, since spec/93 U13 leaves it at any value (log entry 19); the CMD registers
and the buffer lengths follow log entries 16 and 3, the result field 7. -/
def Obligations.DecodeConvertsTheWordsItReads : Prop :=
  ∀ (s u : State) (w h : Dim) (inLen outCap : Len) (words : List Word64), s.rgbaOut.mem.wf = true →
    let n := w.toNat * h.toNat * 4
    w.toNat % 8 = 0 → outCap.toNat = n →
    readsFrom (n / 8) (s.streamStart inLen) = some (words.map some, u) →
    let std : Standard := if 720 ≤ h.toNat then .bt709 else .bt601
    ∃ m : Memory,
      exec (.decode w h inLen outCap) s = .next { s with
        cmdOp := 0x51, cmdWidth := w, cmdHeight := h, cmdInLen := inLen, cmdOutCap := outCap,
        std := std, decLen := inLen, decRo := u.decRo, decRr := u.decRr, pipeBi := BitVec.ofNat 64 (n / 32),
        comp := { len := inLen, mem := s.comp.mem }, rgbaOut := { len := outCap, mem := m },
        statusErr := 0, statusOutLen := outCap, result := .noResult } ∧
      readBytes m 0 n = words.flatMap (pairBytes s.config std) ∧
      ∀ a, n ≤ a → readByte m a = readByte s.rgbaOut.mem a

/-- DECODE of a stream of literals that is long enough succeeds (R224, R255 to R259). -/
def Obligations.DecodeOfLiteralsFillsTheFrame : Prop :=
  ∀ (s : State) (w h : Dim) (inLen outCap : Len), s.rgbaOut.mem.wf = true →
    let n := w.toNat * h.toNat * 4
    w.toNat % 8 = 0 → outCap.toNat = n → n ≤ inLen.toNat →
    (∀ k, k < n / 8 → wordIn s.comp.mem (8 * k) ≠ 0xFEFEFEFEFEFEFEFE) →
    ∃ t : State, exec (.decode w h inLen outCap) s = .next t ∧ t.statusErr = 0 ∧ t.statusOutLen = outCap ∧
      t.comp.mem = s.comp.mem ∧ t.rgbaIn = s.rgbaIn ∧
      readBytes t.rgbaOut.mem 0 n =
        ((List.range (n / 8)).map (fun k => wordIn s.comp.mem (8 * k))).flatMap
          (pairBytes s.config (if 720 ≤ h.toNat then .bt709 else .bt601)) ∧
      ∀ a, n ≤ a → readByte t.rgbaOut.mem a = readByte s.rgbaOut.mem a

/-- DECODE fails with InsufficientCompressedData as soon as a read it needs finds the end of the stream; COMP, RGBA_IN and
everything behind the frame in RGBA_OUT are untouched (R258, R283; nothing is said of the frame's own bytes, spec/93
U7). -/
def Obligations.DecodeFailsAtTheEndOfTheStream : Prop :=
  ∀ (s u : State) (w h : Dim) (inLen outCap : Len) (k : Nat) (vs : List (Option Word64)), s.rgbaOut.mem.wf = true →
    let n := w.toNat * h.toNat * 4
    w.toNat % 8 = 0 → outCap.toNat = n →
    readsFrom k (s.streamStart inLen) = some (vs, u) → k ≤ n / 8 → none ∈ vs →
    ∃ t : State, exec (.decode w h inLen outCap) s = .next t ∧ t.statusErr = 3 ∧ t.statusOutLen = 0 ∧
      t.comp.mem = s.comp.mem ∧ t.rgbaIn = s.rgbaIn ∧
      ∀ a, n ≤ a → readByte t.rgbaOut.mem a = readByte s.rgbaOut.mem a

/-- R262: DECODE of what ENCODE wrote succeeds, and its only loss is that of the converters. -/
def Obligations.FrameRoundTripLosesOnlyInConversion : Prop :=
  ∀ (s t : State) (w h : Dim) (inLen outCap : Len), s.comp.mem.wf = true → s.rgbaOut.mem.wf = true →
    let n := w.toNat * h.toNat * 4
    w.toNat % 8 = 0 → inLen.toNat = n → n ≤ outCap.toNat →
    exec (.encode w h inLen outCap) s = .next t →
    let std : Standard := if 720 ≤ h.toNat then .bt709 else .bt601
    ∃ u : State, exec (.decode w h t.statusOutLen inLen) t = .next u ∧
      u.statusErr = 0 ∧ u.statusOutLen = inLen ∧ u.rgbaIn.mem = s.rgbaIn.mem ∧
      readBytes u.rgbaOut.mem 0 n =
        (frameWords s.config.arith std s.rgbaIn.mem (n / 8)).flatMap (pairBytes s.config std)

/-- R262: every record that ENCODE writes is needed; DECODE with a shorter IN_LEN runs out of data. -/
def Obligations.ShortenedStreamRunsOut : Prop :=
  ∀ (s t : State) (w h : Dim) (inLen outCap short : Len), s.comp.mem.wf = true →
    let n := w.toNat * h.toNat * 4
    w.toNat % 8 = 0 → inLen.toNat = n → n ≤ outCap.toNat →
    exec (.encode w h inLen outCap) s = .next t → short.toNat < t.statusOutLen.toNat →
    ∃ u : State, exec (.decode w h short inLen) t = .next u ∧ u.statusErr = 3 ∧ u.statusOutLen = 0

/-- R260: frames of zero pixels. -/
def Obligations.EmptyFramesSucceed : Prop :=
  ∀ (s : State) (w h : Dim) (inLen outCap : Len), w.toNat % 8 = 0 → (w = 0 ∨ h = 0) →
    (∃ t : State, exec (.encode w h 0 outCap) s = .next t ∧ t.statusErr = 0 ∧ t.statusOutLen = 0 ∧
      t.comp.mem = s.comp.mem) ∧
    (inLen ≠ 0 → ∃ t : State, exec (.encode w h inLen outCap) s = .next t ∧ t.statusErr = 2) ∧
    (∃ t : State, exec (.decode w h inLen 0) s = .next t ∧ t.statusErr = 0 ∧ t.statusOutLen = 0 ∧
      t.rgbaOut.mem = s.rgbaOut.mem ∧ t.comp.mem = s.comp.mem) ∧
    (outCap ≠ 0 → ∃ t : State, exec (.decode w h inLen outCap) s = .next t ∧ t.statusErr = 2)

/-- R261, R311: what ENCODE reports and writes depends on its operands, the buffers and the number system only, not on
anything an earlier call or operation left in a register. -/
def Obligations.EncodeForgetsEarlierCalls : Prop :=
  ∀ (s s' t : State) (w h : Dim) (inLen outCap : Len),
    s.rgbaIn.mem = s'.rgbaIn.mem → s.comp.mem = s'.comp.mem → s.config.arith = s'.config.arith →
    exec (.encode w h inLen outCap) s = .next t →
    ∃ t' : State, exec (.encode w h inLen outCap) s' = .next t' ∧
      t'.statusErr = t.statusErr ∧ t'.statusOutLen = t.statusOutLen ∧ t'.comp.mem = t.comp.mem

/-- R261, R311: the same for DECODE, with the same open parameters. After a failed DECODE the clause about RGBA_OUT rests
on the model's choice to do exactly what R258 says, where R258, R287 and spec/93 U7 ask claims not to rely on those bytes
(log entry 13). -/
def Obligations.DecodeForgetsEarlierCalls : Prop :=
  ∀ (s s' t : State) (w h : Dim) (inLen outCap : Len),
    s.comp.mem = s'.comp.mem → s.rgbaOut.mem = s'.rgbaOut.mem → s.config = s'.config →
    exec (.decode w h inLen outCap) s = .next t →
    ∃ t' : State, exec (.decode w h inLen outCap) s' = .next t' ∧
      t'.statusErr = t.statusErr ∧ t'.statusOutLen = t.statusOutLen ∧ t'.rgbaOut.mem = t.rgbaOut.mem

/-! ## The whole machine -/

/-- Only ENCODE and DECODE write STATUS, the descriptor, PIPE.BI, RGBA_OUT and the buffers' lengths; no instruction writes
RGBA_IN's contents, the host's requests or the open parameters (R30, R31, R33, R50). Three points are the model's choice:
that no other operation writes a CMD register, CMD.OP included although R93 gives every operation a code of that name
(log entry 16; R32 only calls them the operand set of the two calls); that a buffer's length is what a call hands over
(log entry 3); and the fields of the model's own, the requests and the open parameters (log entries 4, 2). -/
def Obligations.OnlyCallsWriteCallState : Prop :=
  ∀ (i : Instr) (s t : State), exec i s = .next t →
    t.rgbaIn.mem = s.rgbaIn.mem ∧ t.requests = s.requests ∧ t.config = s.config ∧
    ((∀ w h n c, i ≠ .encode w h n c ∧ i ≠ .decode w h n c) →
      t.statusErr = s.statusErr ∧ t.statusOutLen = s.statusOutLen ∧ t.cmdOp = s.cmdOp ∧
      t.cmdWidth = s.cmdWidth ∧ t.cmdHeight = s.cmdHeight ∧ t.cmdInLen = s.cmdInLen ∧ t.cmdOutCap = s.cmdOutCap ∧
      t.pipeBi = s.pipeBi ∧ t.rgbaIn = s.rgbaIn ∧ t.rgbaOut = s.rgbaOut ∧ t.comp.len = s.comp.len)

/-- The model's own choice for its result field (log entry 7): RLE.PUSH and RLE.FLUSH, which have no result in the table
of R93, and the operations whose result there is a register (PROFILE.STD, the encoder's or decoder's state, STATUS),
leave none in the field. -/
def Obligations.OperationsWithoutAResultAnswerNone : Prop :=
  ∀ (i : Instr) (s t : State), exec i s = .next t →
    ((∃ h, i = .profileSel h) ∨ i = .rleInit ∨ (∃ w, i = .rlePush w) ∨ i = .rleFlush ∨ (∃ n, i = .rldInit n) ∨
      (∃ w h n c, i = .encode w h n c) ∨ (∃ w h n c, i = .decode w h n c)) →
    t.result = .noResult

/-- PROFILE.STD, the encoder's registers, the decoder's registers and COMP are written only by the operations that R24 to
R30 and R50 name. Two points are the model's choice: RLE.INIT keeps ENC.LW, which R190 leaves without a value (log entry
18), and LIT and RUN, instructions of their own, write DEC.RO and DEC.RR (log entry 10). -/
def Obligations.RegistersHaveOnlyTheirWriters : Prop :=
  ∀ (i : Instr) (s t : State), exec i s = .next t →
    (t.std ≠ s.std →
      (∃ h, i = .profileSel h) ∨ (∃ w h n c, i = .encode w h n c) ∨ (∃ w h n c, i = .decode w h n c)) ∧
    (t.encLw ≠ s.encLw → (∃ w, i = .rlePush w) ∨ (∃ w h n c, i = .encode w h n c)) ∧
    (t.encMc ≠ s.encMc →
      i = .rleInit ∨ (∃ w, i = .rlePush w) ∨ i = .rleFinish ∨ (∃ w h n c, i = .encode w h n c)) ∧
    (t.encWc ≠ s.encWc ∨ t.comp.mem ≠ s.comp.mem →
      i = .rleInit ∨ (∃ w, i = .rlePush w) ∨ i = .rleFlush ∨ i = .rleFinish ∨ (∃ w h n c, i = .encode w h n c)) ∧
    (t.decRo ≠ s.decRo ∨ t.decRr ≠ s.decRr →
      (∃ n, i = .rldInit n) ∨ i = .rldRead ∨ (∃ v, i = .lit v) ∨ (∃ n v, i = .run n v) ∨
      (∃ w h n c, i = .decode w h n c)) ∧
    (t.decLen ≠ s.decLen → (∃ n, i = .rldInit n) ∨ (∃ w h n c, i = .decode w h n c))

/-- The model's choice for the rows that are data formats (log entry 8): the answer is the value they stand for, and
nothing else changes. -/
def Obligations.DataFormatsAnswerTheirValue : Prop :=
  ∀ (s : State) (a c y : Field10) (w1 w2 : Word32) (p : Pixel),
    exec (.packedWord32 a c y) s = .next { s with result := .fields a c y } ∧
    exec (.word64 w1 w2) s = .next { s with result := .word64 (w1 ++ w2) } ∧
    exec (.pixel p) s = .next { s with result := .pixel p }
end

