-- ==== Sys2Proof/Laws/Arith.lean ====
section
/-! SUPPORT. What the operations do in the spec's own number system (R10), and what `trunc`, `clamp` and `round` do
(R11, R12). -/

namespace Sys2Proof.Machine

@[simp] theorem num_exact (x : Q) : num .exactRational x = x := rfl
@[simp] theorem add_exact (x y : Q) : add .exactRational x y = x + y := rfl
@[simp] theorem sub_exact (x y : Q) : sub .exactRational x y = x - y := rfl
@[simp] theorem mul_exact (x y : Q) : mul .exactRational x y = x * y := rfl
@[simp] theorem div_exact (x y : Q) : div .exactRational x y = x / y := rfl
@[simp] theorem toField10_exact (x : Q) : toField10 .exactRational x = BitVec.ofInt 10 (trunc x) := rfl

/-- On the values the rules apply it to, `trunc` is `floor` (R11). -/
theorem trunc_of_nonneg {x : Q} (h : 0 ≤ x) : trunc x = x.floor := by
  have hn : 0 ≤ x.num := Rat.num_nonneg.mpr h
  rw [trunc, Rat.floor_def, Int.tdiv_eq_ediv_of_nonneg hn]

theorem floor_le_self (x : Q) : (x.floor : Q) ≤ x := Rat.floor_le x

theorem lt_floor_add_one (x : Q) : x < (x.floor : Q) + 1 := by
  have h : x - 1 < x.floor := Rat.lt_floor
  linarith

theorem floor_eq_of_bounds {x : Q} {n : Int} (h1 : (n : Q) ≤ x) (h2 : x < (n : Q) + 1) : x.floor = n := by
  have h3 := floor_le_self x
  have h4 := lt_floor_add_one x
  have h5 : (n : Q) < x.floor + 1 := lt_of_le_of_lt h1 h4
  have h6 : (x.floor : Q) < n + 1 := lt_of_le_of_lt h3 h2
  have h7 : n < x.floor + 1 := by exact_mod_cast h5
  have h8 : x.floor < n + 1 := by exact_mod_cast h6
  omega

theorem clamp_le (x lo hi : Q) (h : lo ≤ hi) : clamp x lo hi ≤ hi := by
  unfold clamp
  split
  · exact h
  · split
    · exact le_refl _
    · next h2 => exact not_lt.mp h2

theorem le_clamp (x lo hi : Q) (h : lo ≤ hi) : lo ≤ clamp x lo hi := by
  unfold clamp
  split
  · exact le_refl _
  next h1 =>
    split
    · exact h
    · exact not_lt.mp h1

/-- `clamp` leaves a value in range alone. -/
theorem clamp_of_mem {x lo hi : Q} (h1 : lo ≤ x) (h2 : x ≤ hi) : clamp x lo hi = x := by
  rw [clamp, if_neg (not_lt.mpr h1), if_neg (not_lt.mpr h2)]

/-- Whatever the tie rule, `round` goes to one of the two neighbours, and not past the half (R12). -/
theorem roundNearest_bounds (tie : RoundTie) (x : Q) :
    x - 1 / 2 ≤ (roundNearest tie x : Q) ∧ (roundNearest tie x : Q) ≤ x + 1 / 2 := by
  have h1 := floor_le_self x
  have h2 := lt_floor_add_one x
  unfold roundNearest
  split
  · constructor <;> linarith
  · split
    · constructor <;> push_cast <;> linarith
    · have h3 : x - x.floor = 1 / 2 := by linarith
      cases tie
      · constructor <;> push_cast <;> linarith
      · constructor <;> linarith
      · dsimp only
        split <;> constructor <;> push_cast <;> linarith

/-- The default tie rule is `floor (x + 1/2)` (R12). -/
theorem roundNearest_halfUp (x : Q) : roundNearest .halfUp x = (x + 1 / 2).floor := by
  have h1 := floor_le_self x
  have h2 := lt_floor_add_one x
  symm
  unfold roundNearest
  split
  · apply floor_eq_of_bounds <;> linarith
  · split
    · apply floor_eq_of_bounds <;> push_cast <;> linarith
    · apply floor_eq_of_bounds <;> push_cast <;> linarith

end Sys2Proof.Machine
end

