-- ==== Sys2Proof/Laws/Bytes.lean ====
section
/-! SUPPORT. Byte order: the bytes of a word read back as the word, and the fields of a packed word (R13, R81,
R95). -/

namespace Sys2Proof.Machine

@[simp] theorem be32Bytes_length (v : Word32) : (be32Bytes v).length = 4 := rfl
@[simp] theorem be64Bytes_length (v : Word64) : (be64Bytes v).length = 8 := rfl
@[simp] theorem be10Bytes_length (v : Field10) : (be10Bytes v).length = 2 := rfl
@[simp] theorem pixelBytes_length (p : Pixel) : (pixelBytes p).length = 4 := rfl
@[simp] theorem batchBytes_length (p : Batch) : (batchBytes p).length = 32 := rfl

theorem append4_extract (v : Word32) :
    v.extractLsb' 24 8 ++ v.extractLsb' 16 8 ++ v.extractLsb' 8 8 ++ v.extractLsb' 0 8 = v := by
  ext i hi
  simp only [BitVec.getElem_append, BitVec.getElem_extractLsb']
  split
  · simp [BitVec.getLsbD_eq_getElem hi]
  · split
    · have : 8 + (i - 8) = i := by omega
      simp [this, BitVec.getLsbD_eq_getElem hi]
    · split
      · have : 16 + (i - 8 - 8) = i := by omega
        simp [this, BitVec.getLsbD_eq_getElem hi]
      · have : 24 + (i - 8 - 8 - 8) = i := by omega
        simp [this, BitVec.getLsbD_eq_getElem hi]

theorem append2_extract (v : Word64) : v.extractLsb' 32 32 ++ v.extractLsb' 0 32 = v := by
  ext i hi
  simp only [BitVec.getElem_append, BitVec.getElem_extractLsb']
  split
  · simp [BitVec.getLsbD_eq_getElem hi]
  · have : 32 + (i - 32) = i := by omega
    simp [this, BitVec.getLsbD_eq_getElem hi]

theorem extract_extract (v : Word64) (a b : Nat) (h : b + 8 ≤ 32) :
    (v.extractLsb' a 32).extractLsb' b 8 = v.extractLsb' (a + b) 8 := by
  ext i hi
  have : b + i < 32 := by omega
  simp [BitVec.getElem_extractLsb', this, Nat.add_assoc]

/-- `BE64` is `BE32` of the upper word, then of the lower. -/
theorem be64Bytes_eq (v : Word64) : be64Bytes v = be32Bytes (v.extractLsb' 32 32) ++ be32Bytes (v.extractLsb' 0 32) := by
  simp [be64Bytes, be32Bytes, extract_extract]

/-- `be32` of `BE32`, wherever the four bytes stand. -/
theorem be32At_be32Bytes (xs ys : List Byte) (v : Word32) : be32At (xs ++ be32Bytes v ++ ys) xs.length = v := by
  have h : ∀ k, byteAt (xs ++ be32Bytes v ++ ys) (xs.length + k) = (be32Bytes v ++ ys).getD k 0 := by
    intro k
    simp [byteAt, List.getD_eq_getElem?_getD, List.append_assoc, List.getElem?_append_right]
  have h0 := h 0
  rw [Nat.add_zero] at h0
  rw [be32At, h0, h 1, h 2, h 3]
  exact append4_extract v

/-- `be64` of `BE64`, wherever the eight bytes stand. -/
theorem be64At_be64Bytes (xs ys : List Byte) (v : Word64) : be64At (xs ++ be64Bytes v ++ ys) xs.length = v := by
  rw [be64At, be64Bytes_eq]
  have h1 := be32At_be32Bytes xs (be32Bytes (v.extractLsb' 0 32) ++ ys) (v.extractLsb' 32 32)
  have h2 := be32At_be32Bytes (xs ++ be32Bytes (v.extractLsb' 32 32)) ys (v.extractLsb' 0 32)
  simp only [List.append_assoc, List.length_append, be32Bytes_length] at h1 h2 ⊢
  rw [h1, h2]
  exact append2_extract v

@[simp] theorem be64At_be64Bytes_zero (v : Word64) : be64At (be64Bytes v) 0 = v := by
  simpa using be64At_be64Bytes [] [] v

@[simp] theorem be32At_be32Bytes_zero (v : Word32) : be32At (be32Bytes v) 0 = v := by
  simpa using be32At_be32Bytes [] [] v

/-- The fields of a packed word are the ones packed (R81, R95). -/
@[simp] theorem alpha10_packWord (a c y : Field10) : alpha10 (packWord a c y) = a := by
  ext i hi
  have h1 : ¬ (20 + i < 20) := by omega
  have h3 : 20 + i < 32 := by omega
  have h4 : ¬ (20 + i < 10) := by omega
  have h5 : c.getLsbD (20 + i - 10) = false := BitVec.getLsbD_of_ge _ _ (by omega)
  have h6 : y.getLsbD (20 + i) = false := BitVec.getLsbD_of_ge _ _ (by omega)
  simp [alpha10, packWord, BitVec.getElem_extractLsb', h1, h3, h4, h5, h6, BitVec.getLsbD_eq_getElem hi]

@[simp] theorem chroma10_packWord (a c y : Field10) : chroma10 (packWord a c y) = c := by
  ext i hi
  have h1 : 10 + i < 20 := by omega
  have h3 : 10 + i < 32 := by omega
  simp [chroma10, packWord, BitVec.getElem_extractLsb', h1, h3, BitVec.getLsbD_eq_getElem hi]

@[simp] theorem luma10_packWord (a c y : Field10) : luma10 (packWord a c y) = y := by
  ext i hi
  have h1 : i < 20 := by omega
  have h3 : i < 32 := by omega
  simp [luma10, packWord, BitVec.getElem_extractLsb', hi, h1, h3]

/-- Bits 31:30 of a packed word are 0 (R81). -/
theorem packWord_top (a c y : Field10) : (packWord a c y).extractLsb' 30 2 = 0 := by
  ext i hi
  have h1 : ¬ (30 + i < 20) := by omega
  have h2 : ¬ (30 + i < 10) := by omega
  have h4 : a.getLsbD (30 + i - 20) = false := BitVec.getLsbD_of_ge _ _ (by omega)
  have h5 : c.getLsbD (30 + i - 10) = false := BitVec.getLsbD_of_ge _ _ (by omega)
  have h6 : y.getLsbD (30 + i) = false := BitVec.getLsbD_of_ge _ _ (by omega)
  simp [packWord, BitVec.getElem_extractLsb', h1, h2, h4, h5, h6]

theorem getLsbD_joinWords (a b : Word32) (i : Nat) :
    (joinWords a b).getLsbD i = if i < 32 then b.getLsbD i else a.getLsbD (i - 32) :=
  BitVec.getLsbD_append

@[simp] theorem firstWord_joinWords (a b : Word32) : firstWord (joinWords a b) = a := by
  ext i hi
  simp [firstWord, BitVec.getElem_extractLsb', getLsbD_joinWords, BitVec.getLsbD_eq_getElem hi]

@[simp] theorem secondWord_joinWords (a b : Word32) : secondWord (joinWords a b) = b := by
  ext i hi
  simp [secondWord, BitVec.getElem_extractLsb', getLsbD_joinWords, hi]

end Sys2Proof.Machine
end

