-- ==== Sys2Proof/Laws/Decode.lean ====
section
/-! SUPPORT. The rational operands of INV.RGB read back as they were written (log entry 6). -/

namespace Sys2Proof

theorem takeNat_cons_lt {acc : Nat} {b : Byte} {rest : List Byte} (h : b.toNat < 128) :
    takeNat acc (b :: rest) = some (acc * 128 + b.toNat, rest) := by
  rw [takeNat, if_pos h]

/-- The high bytes of a number, read before its last byte. -/
theorem takeNat_high {fuel n : Nat} (h : n ≤ fuel) (rest : List Byte) :
    takeNat 0 (natHighBytes fuel n ++ rest) = takeNat n rest := by
  induction fuel generalizing n rest with
  | zero =>
    obtain rfl : n = 0 := by omega
    rw [natHighBytes, List.nil_append]
  | succ fuel ih =>
    rw [natHighBytes]
    split
    · next h0 => rw [h0, List.nil_append]
    · have hb : (BitVec.ofNat 8 (n % 128 + 128)).toNat = n % 128 + 128 := by
        rw [BitVec.toNat_ofNat]; omega
      rw [List.append_assoc, ih (by omega), List.singleton_append, takeNat, hb, if_neg (by omega),
        show n / 128 * 128 + (n % 128 + 128 - 128) = n by omega]

/-- A number reads back from its bytes, whatever follows them. -/
theorem takeNat_natBytes (n : Nat) (rest : List Byte) : takeNat 0 (natBytes n ++ rest) = some (n, rest) := by
  have hb : (BitVec.ofNat 8 (n % 128)).toNat = n % 128 := by rw [BitVec.toNat_ofNat]; omega
  rw [natBytes, List.append_assoc, takeNat_high (by omega), List.singleton_append, takeNat_cons_lt (by omega), hb,
    show n / 128 * 128 + n % 128 = n by omega]

theorem unfoldSign_foldSign (z : Int) : unfoldSign (foldSign z) = z := by
  unfold unfoldSign foldSign
  split <;> split <;> omega

/-- A rational reads back from its bytes, whatever follows them. -/
theorem takeRational_rationalBytes (q : Q) (rest : List Byte) :
    takeRational (rationalBytes q ++ rest) = some (q, rest) := by
  have hd : q.den - 1 + 1 = q.den := Nat.sub_add_cancel q.den_pos
  simp only [takeRational, rationalBytes, List.append_assoc, takeNat_natBytes, unfoldSign_foldSign, hd,
    Rat.mkRat_self]

/-- A rational takes at least two bytes. -/
theorem rationalBytes_length (q : Q) : 2 ≤ (rationalBytes q).length := by
  simp only [rationalBytes, natBytes, List.length_append, List.length_singleton]
  omega

end Sys2Proof
end

