-- ==== Sys2Proof/Laws/Memory.lean ====
section
/-! SUPPORT. The laws of buffer contents: a write is read back, leaves every other offset alone, and keeps the
canonical form. -/

namespace Sys2Proof.Machine

/-! ## Canonical form -/

theorem Memory.wfFrom_mono {m : Memory} {lo lo' : Nat} (h : lo' ≤ lo) (hm : Memory.wfFrom lo m = true) :
    Memory.wfFrom lo' m = true := by
  cases m with
  | nil => rfl
  | cons c m =>
    simp only [Memory.wfFrom, Bool.and_eq_true, decide_eq_true_eq] at hm ⊢
    exact ⟨⟨by omega, hm.1.2⟩, hm.2⟩

theorem readByte_below {m : Memory} {lo a : Nat} (hm : Memory.wfFrom lo m = true) (ha : a < lo) :
    readByte m a = unlistedByte := by
  induction m generalizing lo with
  | nil => rfl
  | cons c m ih =>
    obtain ⟨k, v⟩ := c
    simp only [Memory.wfFrom, Bool.and_eq_true, decide_eq_true_eq] at hm
    have hk : k ≠ a := by omega
    simp only [readByte, hk, if_false]
    exact ih hm.2 (by omega)

theorem wfFrom_writeByte {m : Memory} {lo a : Nat} {b : Byte} (hm : Memory.wfFrom lo m = true) (ha : lo ≤ a) :
    Memory.wfFrom lo (writeByte m a b) = true := by
  induction m generalizing lo with
  | nil => by_cases hb : b = unlistedByte <;> simp [writeByte, hb, Memory.wfFrom, ha]
  | cons c m ih =>
    obtain ⟨k, v⟩ := c
    simp only [Memory.wfFrom, Bool.and_eq_true, decide_eq_true_eq] at hm
    obtain ⟨⟨hlo, hv⟩, hm⟩ := hm
    rw [writeByte]
    split
    next hak =>
      have hm' := hm
      by_cases hb : b = unlistedByte
      · simp [hb, Memory.wfFrom, hlo, hv, hm]
      · simp only [hb, if_false, Memory.wfFrom, Bool.and_eq_true, decide_eq_true_eq]
        exact ⟨⟨ha, by simpa using hb⟩, ⟨by omega, hv⟩, hm⟩
    next hak =>
      split
      next hka =>
        by_cases hb : b = unlistedByte
        · simpa [hb] using Memory.wfFrom_mono (by omega) hm
        · subst hka
          simp only [hb, if_false, Memory.wfFrom, Bool.and_eq_true, decide_eq_true_eq]
          exact ⟨⟨ha, by simpa using hb⟩, hm⟩
      next hka =>
        simp only [Memory.wfFrom, Bool.and_eq_true, decide_eq_true_eq]
        exact ⟨⟨hlo, hv⟩, ih hm (by omega)⟩

/-- Every write of one byte keeps the canonical form. -/
theorem writeByte_wf {m : Memory} (a : Nat) (b : Byte) (hm : m.wf = true) : Memory.wf (writeByte m a b) = true :=
  wfFrom_writeByte hm (Nat.zero_le a)

/-- Every write of bytes keeps the canonical form. -/
theorem writeBytes_wf {m : Memory} (a : Nat) (bs : List Byte) (hm : m.wf = true) :
    Memory.wf (writeBytes m a bs) = true := by
  induction bs generalizing m a with
  | nil => exact hm
  | cons b bs ih => exact ih (a + 1) (writeByte_wf a b hm)

/-! ## Reading after writing -/

theorem readByte_writeByte_from {m : Memory} {lo : Nat} (a : Nat) (b : Byte) (hm : Memory.wfFrom lo m = true)
    (c : Nat) : readByte (writeByte m a b) c = if a = c then b else readByte m c := by
  induction m generalizing lo with
  | nil => by_cases hb : b = unlistedByte <;> simp [writeByte, hb, readByte]
  | cons d m ih =>
    obtain ⟨k, v⟩ := d
    simp only [Memory.wfFrom, Bool.and_eq_true, decide_eq_true_eq] at hm
    obtain ⟨⟨_, _⟩, hm⟩ := hm
    rw [writeByte]
    split
    next hak =>
      by_cases hb : b = unlistedByte
      · simp only [hb, if_true]
        split
        next h =>
          subst h
          have hk : k ≠ a := by omega
          simp only [readByte, hk, if_false]
          exact readByte_below hm (by omega)
        next h => rfl
      · simp only [hb, if_false]
        by_cases h : a = c <;> simp [readByte, h]
    next hak =>
      split
      next hka =>
        subst hka
        by_cases hb : b = unlistedByte
        · simp only [hb, if_true]
          split
          next h => subst h; exact readByte_below hm (by omega)
          next h => simp [readByte, h]
        · simp only [hb, if_false]
          by_cases h : a = c <;> simp [readByte, h]
      next hka =>
        by_cases h : a = c
        · subst h
          have hk : k ≠ a := fun h => hka h.symm
          simp [readByte, hk, ih hm]
        · simp [readByte, ih hm, h]

/-- A byte read after a write of one byte. -/
theorem readByte_writeByte {m : Memory} (hm : m.wf = true) (a : Nat) (b : Byte) (c : Nat) :
    readByte (writeByte m a b) c = if a = c then b else readByte m c :=
  readByte_writeByte_from a b hm c

/-- A byte read after a write of several bytes. -/
theorem readByte_writeBytes {m : Memory} (hm : m.wf = true) (a : Nat) (bs : List Byte) (c : Nat) :
    readByte (writeBytes m a bs) c = if a ≤ c ∧ c < a + bs.length then bs.getD (c - a) 0 else readByte m c := by
  induction bs generalizing m a with
  | nil => simp [writeBytes]
  | cons b bs ih =>
    rw [writeBytes, ih (writeByte_wf a b hm), readByte_writeByte hm]
    by_cases h : a + 1 ≤ c
    · obtain ⟨d, rfl⟩ : ∃ d, c = a + 1 + d := ⟨c - (a + 1), by omega⟩
      have e1 : a + 1 + d - a = d + 1 := by omega
      have e2 : a + 1 + d - (a + 1) = d := by omega
      have e3 : a ≠ a + 1 + d := by omega
      simp only [e1, e2, e3, List.length_cons, List.getD_cons_succ, if_false]
      by_cases hd : d < bs.length
      · rw [if_pos ⟨by omega, by omega⟩, if_pos ⟨by omega, by omega⟩]
      · rw [if_neg (by omega), if_neg (by omega)]
    · rw [if_neg (by omega)]
      by_cases hc : a = c
      · subst hc; simp
      · rw [if_neg hc, if_neg (by simp; omega)]

/-- A write leaves every offset outside the bytes written alone. -/
theorem readByte_writeBytes_other {m : Memory} (hm : m.wf = true) {a : Nat} {bs : List Byte} {c : Nat}
    (h : c < a ∨ a + bs.length ≤ c) : readByte (writeBytes m a bs) c = readByte m c := by
  rw [readByte_writeBytes hm, if_neg (by omega)]

/-! ## Byte sequences -/

@[simp] theorem readBytes_length (m : Memory) (a n : Nat) : (readBytes m a n).length = n := by
  induction n generalizing a with
  | zero => rfl
  | succ n ih => simp [readBytes, ih]

theorem readBytes_getD (m : Memory) (a n i : Nat) (h : i < n) : (readBytes m a n).getD i 0 = readByte m (a + i) := by
  induction n generalizing a i with
  | zero => omega
  | succ n ih =>
    cases i with
    | zero => simp [readBytes]
    | succ i =>
      rw [readBytes, List.getD_cons_succ, ih (a + 1) i (by omega)]
      congr 1; omega

theorem readBytes_congr {m m' : Memory} {a n : Nat} (h : ∀ c, a ≤ c → c < a + n → readByte m c = readByte m' c) :
    readBytes m a n = readBytes m' a n := by
  induction n generalizing a with
  | zero => rfl
  | succ n ih =>
    rw [readBytes, readBytes, h a (by omega) (by omega), ih (fun c h1 h2 => h c (by omega) (by omega))]

theorem readBytes_append (m : Memory) (a n k : Nat) :
    readBytes m a (n + k) = readBytes m a n ++ readBytes m (a + n) k := by
  induction n generalizing a with
  | zero => simp [readBytes]
  | succ n ih =>
    rw [show n + 1 + k = (n + k) + 1 by omega, readBytes, readBytes, ih, List.cons_append]
    congr 3; omega

/-- Bytes written are read back. -/
theorem readBytes_writeBytes_same {m : Memory} (hm : m.wf = true) (a : Nat) (bs : List Byte) :
    readBytes (writeBytes m a bs) a bs.length = bs := by
  apply List.ext_getElem (by simp)
  intro i h1 h2
  have h3 := readBytes_getD (writeBytes m a bs) a bs.length i h2
  rw [readByte_writeBytes hm, if_pos ⟨by omega, by omega⟩] at h3
  simpa [List.getD_eq_getElem?_getD, h1, h2] using h3

/-- Bytes outside the ones written are as before. -/
theorem readBytes_writeBytes_other {m : Memory} (hm : m.wf = true) {a c n : Nat} {bs : List Byte}
    (h : c + n ≤ a ∨ a + bs.length ≤ c) : readBytes (writeBytes m a bs) c n = readBytes m c n :=
  readBytes_congr (fun d h1 h2 => readByte_writeBytes_other hm (by omega))

/-- Two writes, the second behind the first, are one. -/
theorem writeBytes_append (m : Memory) (a : Nat) (xs ys : List Byte) :
    writeBytes (writeBytes m a xs) (a + xs.length) ys = writeBytes m a (xs ++ ys) := by
  induction xs generalizing m a with
  | nil => rfl
  | cons x xs ih =>
    rw [List.cons_append, writeBytes, writeBytes, ← ih]
    congr 1; simp; omega

end Sys2Proof.Machine
end

