-- ==== Sys2Proof/Laws/State.lean ====
section
/-! SUPPORT. Every field after every register update: one lemma per field per update, so that no proof unfolds a
record update. -/

namespace Sys2Proof.Machine

variable (s : State)

/-! ## withResult -/

@[simp] theorem State.withResult_std (r : Result) : (s.withResult r).std = s.std := rfl
@[simp] theorem State.withResult_encLw (r : Result) : (s.withResult r).encLw = s.encLw := rfl
@[simp] theorem State.withResult_encMc (r : Result) : (s.withResult r).encMc = s.encMc := rfl
@[simp] theorem State.withResult_encWc (r : Result) : (s.withResult r).encWc = s.encWc := rfl
@[simp] theorem State.withResult_decRo (r : Result) : (s.withResult r).decRo = s.decRo := rfl
@[simp] theorem State.withResult_decRr (r : Result) : (s.withResult r).decRr = s.decRr := rfl
@[simp] theorem State.withResult_decLen (r : Result) : (s.withResult r).decLen = s.decLen := rfl
@[simp] theorem State.withResult_pipeBi (r : Result) : (s.withResult r).pipeBi = s.pipeBi := rfl
@[simp] theorem State.withResult_statusErr (r : Result) : (s.withResult r).statusErr = s.statusErr := rfl
@[simp] theorem State.withResult_statusOutLen (r : Result) : (s.withResult r).statusOutLen = s.statusOutLen := rfl
@[simp] theorem State.withResult_cmdOp (r : Result) : (s.withResult r).cmdOp = s.cmdOp := rfl
@[simp] theorem State.withResult_cmdWidth (r : Result) : (s.withResult r).cmdWidth = s.cmdWidth := rfl
@[simp] theorem State.withResult_cmdHeight (r : Result) : (s.withResult r).cmdHeight = s.cmdHeight := rfl
@[simp] theorem State.withResult_cmdInLen (r : Result) : (s.withResult r).cmdInLen = s.cmdInLen := rfl
@[simp] theorem State.withResult_cmdOutCap (r : Result) : (s.withResult r).cmdOutCap = s.cmdOutCap := rfl
@[simp] theorem State.withResult_rgbaIn (r : Result) : (s.withResult r).rgbaIn = s.rgbaIn := rfl
@[simp] theorem State.withResult_comp (r : Result) : (s.withResult r).comp = s.comp := rfl
@[simp] theorem State.withResult_rgbaOut (r : Result) : (s.withResult r).rgbaOut = s.rgbaOut := rfl
@[simp] theorem State.withResult_encFinished (r : Result) : (s.withResult r).encFinished = s.encFinished := rfl
@[simp] theorem State.withResult_result (r : Result) : (s.withResult r).result = r := rfl
@[simp] theorem State.withResult_requests (r : Result) : (s.withResult r).requests = s.requests := rfl
@[simp] theorem State.withResult_config (r : Result) : (s.withResult r).config = s.config := rfl

/-! ## withStatus -/

@[simp] theorem State.withStatus_std (e : BitVec 2) (n : Len) : (s.withStatus e n).std = s.std := rfl
@[simp] theorem State.withStatus_encLw (e : BitVec 2) (n : Len) : (s.withStatus e n).encLw = s.encLw := rfl
@[simp] theorem State.withStatus_encMc (e : BitVec 2) (n : Len) : (s.withStatus e n).encMc = s.encMc := rfl
@[simp] theorem State.withStatus_encWc (e : BitVec 2) (n : Len) : (s.withStatus e n).encWc = s.encWc := rfl
@[simp] theorem State.withStatus_decRo (e : BitVec 2) (n : Len) : (s.withStatus e n).decRo = s.decRo := rfl
@[simp] theorem State.withStatus_decRr (e : BitVec 2) (n : Len) : (s.withStatus e n).decRr = s.decRr := rfl
@[simp] theorem State.withStatus_decLen (e : BitVec 2) (n : Len) : (s.withStatus e n).decLen = s.decLen := rfl
@[simp] theorem State.withStatus_pipeBi (e : BitVec 2) (n : Len) : (s.withStatus e n).pipeBi = s.pipeBi := rfl
@[simp] theorem State.withStatus_statusErr (e : BitVec 2) (n : Len) : (s.withStatus e n).statusErr = e := rfl
@[simp] theorem State.withStatus_statusOutLen (e : BitVec 2) (n : Len) : (s.withStatus e n).statusOutLen = n := rfl
@[simp] theorem State.withStatus_cmdOp (e : BitVec 2) (n : Len) : (s.withStatus e n).cmdOp = s.cmdOp := rfl
@[simp] theorem State.withStatus_cmdWidth (e : BitVec 2) (n : Len) : (s.withStatus e n).cmdWidth = s.cmdWidth := rfl
@[simp] theorem State.withStatus_cmdHeight (e : BitVec 2) (n : Len) : (s.withStatus e n).cmdHeight = s.cmdHeight := rfl
@[simp] theorem State.withStatus_cmdInLen (e : BitVec 2) (n : Len) : (s.withStatus e n).cmdInLen = s.cmdInLen := rfl
@[simp] theorem State.withStatus_cmdOutCap (e : BitVec 2) (n : Len) : (s.withStatus e n).cmdOutCap = s.cmdOutCap := rfl
@[simp] theorem State.withStatus_rgbaIn (e : BitVec 2) (n : Len) : (s.withStatus e n).rgbaIn = s.rgbaIn := rfl
@[simp] theorem State.withStatus_comp (e : BitVec 2) (n : Len) : (s.withStatus e n).comp = s.comp := rfl
@[simp] theorem State.withStatus_rgbaOut (e : BitVec 2) (n : Len) : (s.withStatus e n).rgbaOut = s.rgbaOut := rfl
@[simp] theorem State.withStatus_encFinished (e : BitVec 2) (n : Len) : (s.withStatus e n).encFinished = s.encFinished := rfl
@[simp] theorem State.withStatus_result (e : BitVec 2) (n : Len) : (s.withStatus e n).result = s.result := rfl
@[simp] theorem State.withStatus_requests (e : BitVec 2) (n : Len) : (s.withStatus e n).requests = s.requests := rfl
@[simp] theorem State.withStatus_config (e : BitVec 2) (n : Len) : (s.withStatus e n).config = s.config := rfl

/-! ## withStd -/

@[simp] theorem State.withStd_std (x : Standard) : (s.withStd x).std = x := rfl
@[simp] theorem State.withStd_encLw (x : Standard) : (s.withStd x).encLw = s.encLw := rfl
@[simp] theorem State.withStd_encMc (x : Standard) : (s.withStd x).encMc = s.encMc := rfl
@[simp] theorem State.withStd_encWc (x : Standard) : (s.withStd x).encWc = s.encWc := rfl
@[simp] theorem State.withStd_decRo (x : Standard) : (s.withStd x).decRo = s.decRo := rfl
@[simp] theorem State.withStd_decRr (x : Standard) : (s.withStd x).decRr = s.decRr := rfl
@[simp] theorem State.withStd_decLen (x : Standard) : (s.withStd x).decLen = s.decLen := rfl
@[simp] theorem State.withStd_pipeBi (x : Standard) : (s.withStd x).pipeBi = s.pipeBi := rfl
@[simp] theorem State.withStd_statusErr (x : Standard) : (s.withStd x).statusErr = s.statusErr := rfl
@[simp] theorem State.withStd_statusOutLen (x : Standard) : (s.withStd x).statusOutLen = s.statusOutLen := rfl
@[simp] theorem State.withStd_cmdOp (x : Standard) : (s.withStd x).cmdOp = s.cmdOp := rfl
@[simp] theorem State.withStd_cmdWidth (x : Standard) : (s.withStd x).cmdWidth = s.cmdWidth := rfl
@[simp] theorem State.withStd_cmdHeight (x : Standard) : (s.withStd x).cmdHeight = s.cmdHeight := rfl
@[simp] theorem State.withStd_cmdInLen (x : Standard) : (s.withStd x).cmdInLen = s.cmdInLen := rfl
@[simp] theorem State.withStd_cmdOutCap (x : Standard) : (s.withStd x).cmdOutCap = s.cmdOutCap := rfl
@[simp] theorem State.withStd_rgbaIn (x : Standard) : (s.withStd x).rgbaIn = s.rgbaIn := rfl
@[simp] theorem State.withStd_comp (x : Standard) : (s.withStd x).comp = s.comp := rfl
@[simp] theorem State.withStd_rgbaOut (x : Standard) : (s.withStd x).rgbaOut = s.rgbaOut := rfl
@[simp] theorem State.withStd_encFinished (x : Standard) : (s.withStd x).encFinished = s.encFinished := rfl
@[simp] theorem State.withStd_result (x : Standard) : (s.withStd x).result = s.result := rfl
@[simp] theorem State.withStd_requests (x : Standard) : (s.withStd x).requests = s.requests := rfl
@[simp] theorem State.withStd_config (x : Standard) : (s.withStd x).config = s.config := rfl

/-! ## withEncoder -/

@[simp] theorem State.withEncoder_std (lw : Word64) (mc : Count) (wc : Len) : (s.withEncoder lw mc wc).std = s.std := rfl
@[simp] theorem State.withEncoder_encLw (lw : Word64) (mc : Count) (wc : Len) : (s.withEncoder lw mc wc).encLw = lw := rfl
@[simp] theorem State.withEncoder_encMc (lw : Word64) (mc : Count) (wc : Len) : (s.withEncoder lw mc wc).encMc = mc := rfl
@[simp] theorem State.withEncoder_encWc (lw : Word64) (mc : Count) (wc : Len) : (s.withEncoder lw mc wc).encWc = wc := rfl
@[simp] theorem State.withEncoder_decRo (lw : Word64) (mc : Count) (wc : Len) : (s.withEncoder lw mc wc).decRo = s.decRo := rfl
@[simp] theorem State.withEncoder_decRr (lw : Word64) (mc : Count) (wc : Len) : (s.withEncoder lw mc wc).decRr = s.decRr := rfl
@[simp] theorem State.withEncoder_decLen (lw : Word64) (mc : Count) (wc : Len) : (s.withEncoder lw mc wc).decLen = s.decLen := rfl
@[simp] theorem State.withEncoder_pipeBi (lw : Word64) (mc : Count) (wc : Len) : (s.withEncoder lw mc wc).pipeBi = s.pipeBi := rfl
@[simp] theorem State.withEncoder_statusErr (lw : Word64) (mc : Count) (wc : Len) : (s.withEncoder lw mc wc).statusErr = s.statusErr := rfl
@[simp] theorem State.withEncoder_statusOutLen (lw : Word64) (mc : Count) (wc : Len) : (s.withEncoder lw mc wc).statusOutLen = s.statusOutLen := rfl
@[simp] theorem State.withEncoder_cmdOp (lw : Word64) (mc : Count) (wc : Len) : (s.withEncoder lw mc wc).cmdOp = s.cmdOp := rfl
@[simp] theorem State.withEncoder_cmdWidth (lw : Word64) (mc : Count) (wc : Len) : (s.withEncoder lw mc wc).cmdWidth = s.cmdWidth := rfl
@[simp] theorem State.withEncoder_cmdHeight (lw : Word64) (mc : Count) (wc : Len) : (s.withEncoder lw mc wc).cmdHeight = s.cmdHeight := rfl
@[simp] theorem State.withEncoder_cmdInLen (lw : Word64) (mc : Count) (wc : Len) : (s.withEncoder lw mc wc).cmdInLen = s.cmdInLen := rfl
@[simp] theorem State.withEncoder_cmdOutCap (lw : Word64) (mc : Count) (wc : Len) : (s.withEncoder lw mc wc).cmdOutCap = s.cmdOutCap := rfl
@[simp] theorem State.withEncoder_rgbaIn (lw : Word64) (mc : Count) (wc : Len) : (s.withEncoder lw mc wc).rgbaIn = s.rgbaIn := rfl
@[simp] theorem State.withEncoder_comp (lw : Word64) (mc : Count) (wc : Len) : (s.withEncoder lw mc wc).comp = s.comp := rfl
@[simp] theorem State.withEncoder_rgbaOut (lw : Word64) (mc : Count) (wc : Len) : (s.withEncoder lw mc wc).rgbaOut = s.rgbaOut := rfl
@[simp] theorem State.withEncoder_encFinished (lw : Word64) (mc : Count) (wc : Len) : (s.withEncoder lw mc wc).encFinished = s.encFinished := rfl
@[simp] theorem State.withEncoder_result (lw : Word64) (mc : Count) (wc : Len) : (s.withEncoder lw mc wc).result = s.result := rfl
@[simp] theorem State.withEncoder_requests (lw : Word64) (mc : Count) (wc : Len) : (s.withEncoder lw mc wc).requests = s.requests := rfl
@[simp] theorem State.withEncoder_config (lw : Word64) (mc : Count) (wc : Len) : (s.withEncoder lw mc wc).config = s.config := rfl

/-! ## withEncFinished -/

@[simp] theorem State.withEncFinished_std (b : Bool) : (s.withEncFinished b).std = s.std := rfl
@[simp] theorem State.withEncFinished_encLw (b : Bool) : (s.withEncFinished b).encLw = s.encLw := rfl
@[simp] theorem State.withEncFinished_encMc (b : Bool) : (s.withEncFinished b).encMc = s.encMc := rfl
@[simp] theorem State.withEncFinished_encWc (b : Bool) : (s.withEncFinished b).encWc = s.encWc := rfl
@[simp] theorem State.withEncFinished_decRo (b : Bool) : (s.withEncFinished b).decRo = s.decRo := rfl
@[simp] theorem State.withEncFinished_decRr (b : Bool) : (s.withEncFinished b).decRr = s.decRr := rfl
@[simp] theorem State.withEncFinished_decLen (b : Bool) : (s.withEncFinished b).decLen = s.decLen := rfl
@[simp] theorem State.withEncFinished_pipeBi (b : Bool) : (s.withEncFinished b).pipeBi = s.pipeBi := rfl
@[simp] theorem State.withEncFinished_statusErr (b : Bool) : (s.withEncFinished b).statusErr = s.statusErr := rfl
@[simp] theorem State.withEncFinished_statusOutLen (b : Bool) : (s.withEncFinished b).statusOutLen = s.statusOutLen := rfl
@[simp] theorem State.withEncFinished_cmdOp (b : Bool) : (s.withEncFinished b).cmdOp = s.cmdOp := rfl
@[simp] theorem State.withEncFinished_cmdWidth (b : Bool) : (s.withEncFinished b).cmdWidth = s.cmdWidth := rfl
@[simp] theorem State.withEncFinished_cmdHeight (b : Bool) : (s.withEncFinished b).cmdHeight = s.cmdHeight := rfl
@[simp] theorem State.withEncFinished_cmdInLen (b : Bool) : (s.withEncFinished b).cmdInLen = s.cmdInLen := rfl
@[simp] theorem State.withEncFinished_cmdOutCap (b : Bool) : (s.withEncFinished b).cmdOutCap = s.cmdOutCap := rfl
@[simp] theorem State.withEncFinished_rgbaIn (b : Bool) : (s.withEncFinished b).rgbaIn = s.rgbaIn := rfl
@[simp] theorem State.withEncFinished_comp (b : Bool) : (s.withEncFinished b).comp = s.comp := rfl
@[simp] theorem State.withEncFinished_rgbaOut (b : Bool) : (s.withEncFinished b).rgbaOut = s.rgbaOut := rfl
@[simp] theorem State.withEncFinished_encFinished (b : Bool) : (s.withEncFinished b).encFinished = b := rfl
@[simp] theorem State.withEncFinished_result (b : Bool) : (s.withEncFinished b).result = s.result := rfl
@[simp] theorem State.withEncFinished_requests (b : Bool) : (s.withEncFinished b).requests = s.requests := rfl
@[simp] theorem State.withEncFinished_config (b : Bool) : (s.withEncFinished b).config = s.config := rfl

/-! ## withDecoder -/

@[simp] theorem State.withDecoder_std (ro : Len) (rr : Count) : (s.withDecoder ro rr).std = s.std := rfl
@[simp] theorem State.withDecoder_encLw (ro : Len) (rr : Count) : (s.withDecoder ro rr).encLw = s.encLw := rfl
@[simp] theorem State.withDecoder_encMc (ro : Len) (rr : Count) : (s.withDecoder ro rr).encMc = s.encMc := rfl
@[simp] theorem State.withDecoder_encWc (ro : Len) (rr : Count) : (s.withDecoder ro rr).encWc = s.encWc := rfl
@[simp] theorem State.withDecoder_decRo (ro : Len) (rr : Count) : (s.withDecoder ro rr).decRo = ro := rfl
@[simp] theorem State.withDecoder_decRr (ro : Len) (rr : Count) : (s.withDecoder ro rr).decRr = rr := rfl
@[simp] theorem State.withDecoder_decLen (ro : Len) (rr : Count) : (s.withDecoder ro rr).decLen = s.decLen := rfl
@[simp] theorem State.withDecoder_pipeBi (ro : Len) (rr : Count) : (s.withDecoder ro rr).pipeBi = s.pipeBi := rfl
@[simp] theorem State.withDecoder_statusErr (ro : Len) (rr : Count) : (s.withDecoder ro rr).statusErr = s.statusErr := rfl
@[simp] theorem State.withDecoder_statusOutLen (ro : Len) (rr : Count) : (s.withDecoder ro rr).statusOutLen = s.statusOutLen := rfl
@[simp] theorem State.withDecoder_cmdOp (ro : Len) (rr : Count) : (s.withDecoder ro rr).cmdOp = s.cmdOp := rfl
@[simp] theorem State.withDecoder_cmdWidth (ro : Len) (rr : Count) : (s.withDecoder ro rr).cmdWidth = s.cmdWidth := rfl
@[simp] theorem State.withDecoder_cmdHeight (ro : Len) (rr : Count) : (s.withDecoder ro rr).cmdHeight = s.cmdHeight := rfl
@[simp] theorem State.withDecoder_cmdInLen (ro : Len) (rr : Count) : (s.withDecoder ro rr).cmdInLen = s.cmdInLen := rfl
@[simp] theorem State.withDecoder_cmdOutCap (ro : Len) (rr : Count) : (s.withDecoder ro rr).cmdOutCap = s.cmdOutCap := rfl
@[simp] theorem State.withDecoder_rgbaIn (ro : Len) (rr : Count) : (s.withDecoder ro rr).rgbaIn = s.rgbaIn := rfl
@[simp] theorem State.withDecoder_comp (ro : Len) (rr : Count) : (s.withDecoder ro rr).comp = s.comp := rfl
@[simp] theorem State.withDecoder_rgbaOut (ro : Len) (rr : Count) : (s.withDecoder ro rr).rgbaOut = s.rgbaOut := rfl
@[simp] theorem State.withDecoder_encFinished (ro : Len) (rr : Count) : (s.withDecoder ro rr).encFinished = s.encFinished := rfl
@[simp] theorem State.withDecoder_result (ro : Len) (rr : Count) : (s.withDecoder ro rr).result = s.result := rfl
@[simp] theorem State.withDecoder_requests (ro : Len) (rr : Count) : (s.withDecoder ro rr).requests = s.requests := rfl
@[simp] theorem State.withDecoder_config (ro : Len) (rr : Count) : (s.withDecoder ro rr).config = s.config := rfl

/-! ## withDecLen -/

@[simp] theorem State.withDecLen_std (n : Len) : (s.withDecLen n).std = s.std := rfl
@[simp] theorem State.withDecLen_encLw (n : Len) : (s.withDecLen n).encLw = s.encLw := rfl
@[simp] theorem State.withDecLen_encMc (n : Len) : (s.withDecLen n).encMc = s.encMc := rfl
@[simp] theorem State.withDecLen_encWc (n : Len) : (s.withDecLen n).encWc = s.encWc := rfl
@[simp] theorem State.withDecLen_decRo (n : Len) : (s.withDecLen n).decRo = s.decRo := rfl
@[simp] theorem State.withDecLen_decRr (n : Len) : (s.withDecLen n).decRr = s.decRr := rfl
@[simp] theorem State.withDecLen_decLen (n : Len) : (s.withDecLen n).decLen = n := rfl
@[simp] theorem State.withDecLen_pipeBi (n : Len) : (s.withDecLen n).pipeBi = s.pipeBi := rfl
@[simp] theorem State.withDecLen_statusErr (n : Len) : (s.withDecLen n).statusErr = s.statusErr := rfl
@[simp] theorem State.withDecLen_statusOutLen (n : Len) : (s.withDecLen n).statusOutLen = s.statusOutLen := rfl
@[simp] theorem State.withDecLen_cmdOp (n : Len) : (s.withDecLen n).cmdOp = s.cmdOp := rfl
@[simp] theorem State.withDecLen_cmdWidth (n : Len) : (s.withDecLen n).cmdWidth = s.cmdWidth := rfl
@[simp] theorem State.withDecLen_cmdHeight (n : Len) : (s.withDecLen n).cmdHeight = s.cmdHeight := rfl
@[simp] theorem State.withDecLen_cmdInLen (n : Len) : (s.withDecLen n).cmdInLen = s.cmdInLen := rfl
@[simp] theorem State.withDecLen_cmdOutCap (n : Len) : (s.withDecLen n).cmdOutCap = s.cmdOutCap := rfl
@[simp] theorem State.withDecLen_rgbaIn (n : Len) : (s.withDecLen n).rgbaIn = s.rgbaIn := rfl
@[simp] theorem State.withDecLen_comp (n : Len) : (s.withDecLen n).comp = s.comp := rfl
@[simp] theorem State.withDecLen_rgbaOut (n : Len) : (s.withDecLen n).rgbaOut = s.rgbaOut := rfl
@[simp] theorem State.withDecLen_encFinished (n : Len) : (s.withDecLen n).encFinished = s.encFinished := rfl
@[simp] theorem State.withDecLen_result (n : Len) : (s.withDecLen n).result = s.result := rfl
@[simp] theorem State.withDecLen_requests (n : Len) : (s.withDecLen n).requests = s.requests := rfl
@[simp] theorem State.withDecLen_config (n : Len) : (s.withDecLen n).config = s.config := rfl

/-! ## withPipeBi -/

@[simp] theorem State.withPipeBi_std (n : Len) : (s.withPipeBi n).std = s.std := rfl
@[simp] theorem State.withPipeBi_encLw (n : Len) : (s.withPipeBi n).encLw = s.encLw := rfl
@[simp] theorem State.withPipeBi_encMc (n : Len) : (s.withPipeBi n).encMc = s.encMc := rfl
@[simp] theorem State.withPipeBi_encWc (n : Len) : (s.withPipeBi n).encWc = s.encWc := rfl
@[simp] theorem State.withPipeBi_decRo (n : Len) : (s.withPipeBi n).decRo = s.decRo := rfl
@[simp] theorem State.withPipeBi_decRr (n : Len) : (s.withPipeBi n).decRr = s.decRr := rfl
@[simp] theorem State.withPipeBi_decLen (n : Len) : (s.withPipeBi n).decLen = s.decLen := rfl
@[simp] theorem State.withPipeBi_pipeBi (n : Len) : (s.withPipeBi n).pipeBi = n := rfl
@[simp] theorem State.withPipeBi_statusErr (n : Len) : (s.withPipeBi n).statusErr = s.statusErr := rfl
@[simp] theorem State.withPipeBi_statusOutLen (n : Len) : (s.withPipeBi n).statusOutLen = s.statusOutLen := rfl
@[simp] theorem State.withPipeBi_cmdOp (n : Len) : (s.withPipeBi n).cmdOp = s.cmdOp := rfl
@[simp] theorem State.withPipeBi_cmdWidth (n : Len) : (s.withPipeBi n).cmdWidth = s.cmdWidth := rfl
@[simp] theorem State.withPipeBi_cmdHeight (n : Len) : (s.withPipeBi n).cmdHeight = s.cmdHeight := rfl
@[simp] theorem State.withPipeBi_cmdInLen (n : Len) : (s.withPipeBi n).cmdInLen = s.cmdInLen := rfl
@[simp] theorem State.withPipeBi_cmdOutCap (n : Len) : (s.withPipeBi n).cmdOutCap = s.cmdOutCap := rfl
@[simp] theorem State.withPipeBi_rgbaIn (n : Len) : (s.withPipeBi n).rgbaIn = s.rgbaIn := rfl
@[simp] theorem State.withPipeBi_comp (n : Len) : (s.withPipeBi n).comp = s.comp := rfl
@[simp] theorem State.withPipeBi_rgbaOut (n : Len) : (s.withPipeBi n).rgbaOut = s.rgbaOut := rfl
@[simp] theorem State.withPipeBi_encFinished (n : Len) : (s.withPipeBi n).encFinished = s.encFinished := rfl
@[simp] theorem State.withPipeBi_result (n : Len) : (s.withPipeBi n).result = s.result := rfl
@[simp] theorem State.withPipeBi_requests (n : Len) : (s.withPipeBi n).requests = s.requests := rfl
@[simp] theorem State.withPipeBi_config (n : Len) : (s.withPipeBi n).config = s.config := rfl

/-! ## withCmd -/

@[simp] theorem State.withCmd_std (op : Code) (w h : Dim) (n c : Len) : (s.withCmd op w h n c).std = s.std := rfl
@[simp] theorem State.withCmd_encLw (op : Code) (w h : Dim) (n c : Len) : (s.withCmd op w h n c).encLw = s.encLw := rfl
@[simp] theorem State.withCmd_encMc (op : Code) (w h : Dim) (n c : Len) : (s.withCmd op w h n c).encMc = s.encMc := rfl
@[simp] theorem State.withCmd_encWc (op : Code) (w h : Dim) (n c : Len) : (s.withCmd op w h n c).encWc = s.encWc := rfl
@[simp] theorem State.withCmd_decRo (op : Code) (w h : Dim) (n c : Len) : (s.withCmd op w h n c).decRo = s.decRo := rfl
@[simp] theorem State.withCmd_decRr (op : Code) (w h : Dim) (n c : Len) : (s.withCmd op w h n c).decRr = s.decRr := rfl
@[simp] theorem State.withCmd_decLen (op : Code) (w h : Dim) (n c : Len) : (s.withCmd op w h n c).decLen = s.decLen := rfl
@[simp] theorem State.withCmd_pipeBi (op : Code) (w h : Dim) (n c : Len) : (s.withCmd op w h n c).pipeBi = s.pipeBi := rfl
@[simp] theorem State.withCmd_statusErr (op : Code) (w h : Dim) (n c : Len) : (s.withCmd op w h n c).statusErr = s.statusErr := rfl
@[simp] theorem State.withCmd_statusOutLen (op : Code) (w h : Dim) (n c : Len) : (s.withCmd op w h n c).statusOutLen = s.statusOutLen := rfl
@[simp] theorem State.withCmd_cmdOp (op : Code) (w h : Dim) (n c : Len) : (s.withCmd op w h n c).cmdOp = op := rfl
@[simp] theorem State.withCmd_cmdWidth (op : Code) (w h : Dim) (n c : Len) : (s.withCmd op w h n c).cmdWidth = w := rfl
@[simp] theorem State.withCmd_cmdHeight (op : Code) (w h : Dim) (n c : Len) : (s.withCmd op w h n c).cmdHeight = h := rfl
@[simp] theorem State.withCmd_cmdInLen (op : Code) (w h : Dim) (n c : Len) : (s.withCmd op w h n c).cmdInLen = n := rfl
@[simp] theorem State.withCmd_cmdOutCap (op : Code) (w h : Dim) (n c : Len) : (s.withCmd op w h n c).cmdOutCap = c := rfl
@[simp] theorem State.withCmd_rgbaIn (op : Code) (w h : Dim) (n c : Len) : (s.withCmd op w h n c).rgbaIn = s.rgbaIn := rfl
@[simp] theorem State.withCmd_comp (op : Code) (w h : Dim) (n c : Len) : (s.withCmd op w h n c).comp = s.comp := rfl
@[simp] theorem State.withCmd_rgbaOut (op : Code) (w h : Dim) (n c : Len) : (s.withCmd op w h n c).rgbaOut = s.rgbaOut := rfl
@[simp] theorem State.withCmd_encFinished (op : Code) (w h : Dim) (n c : Len) : (s.withCmd op w h n c).encFinished = s.encFinished := rfl
@[simp] theorem State.withCmd_result (op : Code) (w h : Dim) (n c : Len) : (s.withCmd op w h n c).result = s.result := rfl
@[simp] theorem State.withCmd_requests (op : Code) (w h : Dim) (n c : Len) : (s.withCmd op w h n c).requests = s.requests := rfl
@[simp] theorem State.withCmd_config (op : Code) (w h : Dim) (n c : Len) : (s.withCmd op w h n c).config = s.config := rfl

/-! ## withRgbaIn -/

@[simp] theorem State.withRgbaIn_std (b : Buffer) : (s.withRgbaIn b).std = s.std := rfl
@[simp] theorem State.withRgbaIn_encLw (b : Buffer) : (s.withRgbaIn b).encLw = s.encLw := rfl
@[simp] theorem State.withRgbaIn_encMc (b : Buffer) : (s.withRgbaIn b).encMc = s.encMc := rfl
@[simp] theorem State.withRgbaIn_encWc (b : Buffer) : (s.withRgbaIn b).encWc = s.encWc := rfl
@[simp] theorem State.withRgbaIn_decRo (b : Buffer) : (s.withRgbaIn b).decRo = s.decRo := rfl
@[simp] theorem State.withRgbaIn_decRr (b : Buffer) : (s.withRgbaIn b).decRr = s.decRr := rfl
@[simp] theorem State.withRgbaIn_decLen (b : Buffer) : (s.withRgbaIn b).decLen = s.decLen := rfl
@[simp] theorem State.withRgbaIn_pipeBi (b : Buffer) : (s.withRgbaIn b).pipeBi = s.pipeBi := rfl
@[simp] theorem State.withRgbaIn_statusErr (b : Buffer) : (s.withRgbaIn b).statusErr = s.statusErr := rfl
@[simp] theorem State.withRgbaIn_statusOutLen (b : Buffer) : (s.withRgbaIn b).statusOutLen = s.statusOutLen := rfl
@[simp] theorem State.withRgbaIn_cmdOp (b : Buffer) : (s.withRgbaIn b).cmdOp = s.cmdOp := rfl
@[simp] theorem State.withRgbaIn_cmdWidth (b : Buffer) : (s.withRgbaIn b).cmdWidth = s.cmdWidth := rfl
@[simp] theorem State.withRgbaIn_cmdHeight (b : Buffer) : (s.withRgbaIn b).cmdHeight = s.cmdHeight := rfl
@[simp] theorem State.withRgbaIn_cmdInLen (b : Buffer) : (s.withRgbaIn b).cmdInLen = s.cmdInLen := rfl
@[simp] theorem State.withRgbaIn_cmdOutCap (b : Buffer) : (s.withRgbaIn b).cmdOutCap = s.cmdOutCap := rfl
@[simp] theorem State.withRgbaIn_rgbaIn (b : Buffer) : (s.withRgbaIn b).rgbaIn = b := rfl
@[simp] theorem State.withRgbaIn_comp (b : Buffer) : (s.withRgbaIn b).comp = s.comp := rfl
@[simp] theorem State.withRgbaIn_rgbaOut (b : Buffer) : (s.withRgbaIn b).rgbaOut = s.rgbaOut := rfl
@[simp] theorem State.withRgbaIn_encFinished (b : Buffer) : (s.withRgbaIn b).encFinished = s.encFinished := rfl
@[simp] theorem State.withRgbaIn_result (b : Buffer) : (s.withRgbaIn b).result = s.result := rfl
@[simp] theorem State.withRgbaIn_requests (b : Buffer) : (s.withRgbaIn b).requests = s.requests := rfl
@[simp] theorem State.withRgbaIn_config (b : Buffer) : (s.withRgbaIn b).config = s.config := rfl

/-! ## withComp -/

@[simp] theorem State.withComp_std (b : Buffer) : (s.withComp b).std = s.std := rfl
@[simp] theorem State.withComp_encLw (b : Buffer) : (s.withComp b).encLw = s.encLw := rfl
@[simp] theorem State.withComp_encMc (b : Buffer) : (s.withComp b).encMc = s.encMc := rfl
@[simp] theorem State.withComp_encWc (b : Buffer) : (s.withComp b).encWc = s.encWc := rfl
@[simp] theorem State.withComp_decRo (b : Buffer) : (s.withComp b).decRo = s.decRo := rfl
@[simp] theorem State.withComp_decRr (b : Buffer) : (s.withComp b).decRr = s.decRr := rfl
@[simp] theorem State.withComp_decLen (b : Buffer) : (s.withComp b).decLen = s.decLen := rfl
@[simp] theorem State.withComp_pipeBi (b : Buffer) : (s.withComp b).pipeBi = s.pipeBi := rfl
@[simp] theorem State.withComp_statusErr (b : Buffer) : (s.withComp b).statusErr = s.statusErr := rfl
@[simp] theorem State.withComp_statusOutLen (b : Buffer) : (s.withComp b).statusOutLen = s.statusOutLen := rfl
@[simp] theorem State.withComp_cmdOp (b : Buffer) : (s.withComp b).cmdOp = s.cmdOp := rfl
@[simp] theorem State.withComp_cmdWidth (b : Buffer) : (s.withComp b).cmdWidth = s.cmdWidth := rfl
@[simp] theorem State.withComp_cmdHeight (b : Buffer) : (s.withComp b).cmdHeight = s.cmdHeight := rfl
@[simp] theorem State.withComp_cmdInLen (b : Buffer) : (s.withComp b).cmdInLen = s.cmdInLen := rfl
@[simp] theorem State.withComp_cmdOutCap (b : Buffer) : (s.withComp b).cmdOutCap = s.cmdOutCap := rfl
@[simp] theorem State.withComp_rgbaIn (b : Buffer) : (s.withComp b).rgbaIn = s.rgbaIn := rfl
@[simp] theorem State.withComp_comp (b : Buffer) : (s.withComp b).comp = b := rfl
@[simp] theorem State.withComp_rgbaOut (b : Buffer) : (s.withComp b).rgbaOut = s.rgbaOut := rfl
@[simp] theorem State.withComp_encFinished (b : Buffer) : (s.withComp b).encFinished = s.encFinished := rfl
@[simp] theorem State.withComp_result (b : Buffer) : (s.withComp b).result = s.result := rfl
@[simp] theorem State.withComp_requests (b : Buffer) : (s.withComp b).requests = s.requests := rfl
@[simp] theorem State.withComp_config (b : Buffer) : (s.withComp b).config = s.config := rfl

/-! ## withRgbaOut -/

@[simp] theorem State.withRgbaOut_std (b : Buffer) : (s.withRgbaOut b).std = s.std := rfl
@[simp] theorem State.withRgbaOut_encLw (b : Buffer) : (s.withRgbaOut b).encLw = s.encLw := rfl
@[simp] theorem State.withRgbaOut_encMc (b : Buffer) : (s.withRgbaOut b).encMc = s.encMc := rfl
@[simp] theorem State.withRgbaOut_encWc (b : Buffer) : (s.withRgbaOut b).encWc = s.encWc := rfl
@[simp] theorem State.withRgbaOut_decRo (b : Buffer) : (s.withRgbaOut b).decRo = s.decRo := rfl
@[simp] theorem State.withRgbaOut_decRr (b : Buffer) : (s.withRgbaOut b).decRr = s.decRr := rfl
@[simp] theorem State.withRgbaOut_decLen (b : Buffer) : (s.withRgbaOut b).decLen = s.decLen := rfl
@[simp] theorem State.withRgbaOut_pipeBi (b : Buffer) : (s.withRgbaOut b).pipeBi = s.pipeBi := rfl
@[simp] theorem State.withRgbaOut_statusErr (b : Buffer) : (s.withRgbaOut b).statusErr = s.statusErr := rfl
@[simp] theorem State.withRgbaOut_statusOutLen (b : Buffer) : (s.withRgbaOut b).statusOutLen = s.statusOutLen := rfl
@[simp] theorem State.withRgbaOut_cmdOp (b : Buffer) : (s.withRgbaOut b).cmdOp = s.cmdOp := rfl
@[simp] theorem State.withRgbaOut_cmdWidth (b : Buffer) : (s.withRgbaOut b).cmdWidth = s.cmdWidth := rfl
@[simp] theorem State.withRgbaOut_cmdHeight (b : Buffer) : (s.withRgbaOut b).cmdHeight = s.cmdHeight := rfl
@[simp] theorem State.withRgbaOut_cmdInLen (b : Buffer) : (s.withRgbaOut b).cmdInLen = s.cmdInLen := rfl
@[simp] theorem State.withRgbaOut_cmdOutCap (b : Buffer) : (s.withRgbaOut b).cmdOutCap = s.cmdOutCap := rfl
@[simp] theorem State.withRgbaOut_rgbaIn (b : Buffer) : (s.withRgbaOut b).rgbaIn = s.rgbaIn := rfl
@[simp] theorem State.withRgbaOut_comp (b : Buffer) : (s.withRgbaOut b).comp = s.comp := rfl
@[simp] theorem State.withRgbaOut_rgbaOut (b : Buffer) : (s.withRgbaOut b).rgbaOut = b := rfl
@[simp] theorem State.withRgbaOut_encFinished (b : Buffer) : (s.withRgbaOut b).encFinished = s.encFinished := rfl
@[simp] theorem State.withRgbaOut_result (b : Buffer) : (s.withRgbaOut b).result = s.result := rfl
@[simp] theorem State.withRgbaOut_requests (b : Buffer) : (s.withRgbaOut b).requests = s.requests := rfl
@[simp] theorem State.withRgbaOut_config (b : Buffer) : (s.withRgbaOut b).config = s.config := rfl

/-! ## withRequests -/

@[simp] theorem State.withRequests_std (r : List Request) : (s.withRequests r).std = s.std := rfl
@[simp] theorem State.withRequests_encLw (r : List Request) : (s.withRequests r).encLw = s.encLw := rfl
@[simp] theorem State.withRequests_encMc (r : List Request) : (s.withRequests r).encMc = s.encMc := rfl
@[simp] theorem State.withRequests_encWc (r : List Request) : (s.withRequests r).encWc = s.encWc := rfl
@[simp] theorem State.withRequests_decRo (r : List Request) : (s.withRequests r).decRo = s.decRo := rfl
@[simp] theorem State.withRequests_decRr (r : List Request) : (s.withRequests r).decRr = s.decRr := rfl
@[simp] theorem State.withRequests_decLen (r : List Request) : (s.withRequests r).decLen = s.decLen := rfl
@[simp] theorem State.withRequests_pipeBi (r : List Request) : (s.withRequests r).pipeBi = s.pipeBi := rfl
@[simp] theorem State.withRequests_statusErr (r : List Request) : (s.withRequests r).statusErr = s.statusErr := rfl
@[simp] theorem State.withRequests_statusOutLen (r : List Request) : (s.withRequests r).statusOutLen = s.statusOutLen := rfl
@[simp] theorem State.withRequests_cmdOp (r : List Request) : (s.withRequests r).cmdOp = s.cmdOp := rfl
@[simp] theorem State.withRequests_cmdWidth (r : List Request) : (s.withRequests r).cmdWidth = s.cmdWidth := rfl
@[simp] theorem State.withRequests_cmdHeight (r : List Request) : (s.withRequests r).cmdHeight = s.cmdHeight := rfl
@[simp] theorem State.withRequests_cmdInLen (r : List Request) : (s.withRequests r).cmdInLen = s.cmdInLen := rfl
@[simp] theorem State.withRequests_cmdOutCap (r : List Request) : (s.withRequests r).cmdOutCap = s.cmdOutCap := rfl
@[simp] theorem State.withRequests_rgbaIn (r : List Request) : (s.withRequests r).rgbaIn = s.rgbaIn := rfl
@[simp] theorem State.withRequests_comp (r : List Request) : (s.withRequests r).comp = s.comp := rfl
@[simp] theorem State.withRequests_rgbaOut (r : List Request) : (s.withRequests r).rgbaOut = s.rgbaOut := rfl
@[simp] theorem State.withRequests_encFinished (r : List Request) : (s.withRequests r).encFinished = s.encFinished := rfl
@[simp] theorem State.withRequests_result (r : List Request) : (s.withRequests r).result = s.result := rfl
@[simp] theorem State.withRequests_requests (r : List Request) : (s.withRequests r).requests = r := rfl
@[simp] theorem State.withRequests_config (r : List Request) : (s.withRequests r).config = s.config := rfl

/-! ## Views computed from fields -/

@[simp] theorem State.withResult_buffer (r : Result) (sp : Space) : (s.withResult r).buffer sp = s.buffer sp := by cases sp <;> rfl
@[simp] theorem State.withResult_remain (r : Result) : (s.withResult r).remain = s.remain := rfl
@[simp] theorem State.withResult_insideRun (r : Result) : (s.withResult r).insideRun = s.insideRun := rfl
@[simp] theorem State.withResult_noRunPending (r : Result) : (s.withResult r).noRunPending = s.noRunPending := rfl
@[simp] theorem State.withStatus_buffer (e : BitVec 2) (n : Len) (sp : Space) : (s.withStatus e n).buffer sp = s.buffer sp := by cases sp <;> rfl
@[simp] theorem State.withStatus_remain (e : BitVec 2) (n : Len) : (s.withStatus e n).remain = s.remain := rfl
@[simp] theorem State.withStatus_insideRun (e : BitVec 2) (n : Len) : (s.withStatus e n).insideRun = s.insideRun := rfl
@[simp] theorem State.withStatus_noRunPending (e : BitVec 2) (n : Len) : (s.withStatus e n).noRunPending = s.noRunPending := rfl
@[simp] theorem State.withStd_buffer (x : Standard) (sp : Space) : (s.withStd x).buffer sp = s.buffer sp := by cases sp <;> rfl
@[simp] theorem State.withStd_remain (x : Standard) : (s.withStd x).remain = s.remain := rfl
@[simp] theorem State.withStd_insideRun (x : Standard) : (s.withStd x).insideRun = s.insideRun := rfl
@[simp] theorem State.withStd_noRunPending (x : Standard) : (s.withStd x).noRunPending = s.noRunPending := rfl
@[simp] theorem State.withEncoder_buffer (lw : Word64) (mc : Count) (wc : Len) (sp : Space) : (s.withEncoder lw mc wc).buffer sp = s.buffer sp := by cases sp <;> rfl
@[simp] theorem State.withEncoder_remain (lw : Word64) (mc : Count) (wc : Len) : (s.withEncoder lw mc wc).remain = s.remain := rfl
@[simp] theorem State.withEncoder_insideRun (lw : Word64) (mc : Count) (wc : Len) : (s.withEncoder lw mc wc).insideRun = s.insideRun := rfl
@[simp] theorem State.withEncFinished_buffer (b : Bool) (sp : Space) : (s.withEncFinished b).buffer sp = s.buffer sp := by cases sp <;> rfl
@[simp] theorem State.withEncFinished_remain (b : Bool) : (s.withEncFinished b).remain = s.remain := rfl
@[simp] theorem State.withEncFinished_insideRun (b : Bool) : (s.withEncFinished b).insideRun = s.insideRun := rfl
@[simp] theorem State.withEncFinished_noRunPending (b : Bool) : (s.withEncFinished b).noRunPending = s.noRunPending := rfl
@[simp] theorem State.withDecoder_buffer (ro : Len) (rr : Count) (sp : Space) : (s.withDecoder ro rr).buffer sp = s.buffer sp := by cases sp <;> rfl
@[simp] theorem State.withDecoder_noRunPending (ro : Len) (rr : Count) : (s.withDecoder ro rr).noRunPending = s.noRunPending := rfl
@[simp] theorem State.withDecLen_buffer (n : Len) (sp : Space) : (s.withDecLen n).buffer sp = s.buffer sp := by cases sp <;> rfl
@[simp] theorem State.withDecLen_insideRun (n : Len) : (s.withDecLen n).insideRun = s.insideRun := rfl
@[simp] theorem State.withDecLen_noRunPending (n : Len) : (s.withDecLen n).noRunPending = s.noRunPending := rfl
@[simp] theorem State.withPipeBi_buffer (n : Len) (sp : Space) : (s.withPipeBi n).buffer sp = s.buffer sp := by cases sp <;> rfl
@[simp] theorem State.withPipeBi_remain (n : Len) : (s.withPipeBi n).remain = s.remain := rfl
@[simp] theorem State.withPipeBi_insideRun (n : Len) : (s.withPipeBi n).insideRun = s.insideRun := rfl
@[simp] theorem State.withPipeBi_noRunPending (n : Len) : (s.withPipeBi n).noRunPending = s.noRunPending := rfl
@[simp] theorem State.withCmd_buffer (op : Code) (w h : Dim) (n c : Len) (sp : Space) : (s.withCmd op w h n c).buffer sp = s.buffer sp := by cases sp <;> rfl
@[simp] theorem State.withCmd_remain (op : Code) (w h : Dim) (n c : Len) : (s.withCmd op w h n c).remain = s.remain := rfl
@[simp] theorem State.withCmd_insideRun (op : Code) (w h : Dim) (n c : Len) : (s.withCmd op w h n c).insideRun = s.insideRun := rfl
@[simp] theorem State.withCmd_noRunPending (op : Code) (w h : Dim) (n c : Len) : (s.withCmd op w h n c).noRunPending = s.noRunPending := rfl
@[simp] theorem State.withRgbaIn_remain (b : Buffer) : (s.withRgbaIn b).remain = s.remain := rfl
@[simp] theorem State.withRgbaIn_insideRun (b : Buffer) : (s.withRgbaIn b).insideRun = s.insideRun := rfl
@[simp] theorem State.withRgbaIn_noRunPending (b : Buffer) : (s.withRgbaIn b).noRunPending = s.noRunPending := rfl
@[simp] theorem State.withComp_remain (b : Buffer) : (s.withComp b).remain = s.remain := rfl
@[simp] theorem State.withComp_insideRun (b : Buffer) : (s.withComp b).insideRun = s.insideRun := rfl
@[simp] theorem State.withComp_noRunPending (b : Buffer) : (s.withComp b).noRunPending = s.noRunPending := rfl
@[simp] theorem State.withRgbaOut_remain (b : Buffer) : (s.withRgbaOut b).remain = s.remain := rfl
@[simp] theorem State.withRgbaOut_insideRun (b : Buffer) : (s.withRgbaOut b).insideRun = s.insideRun := rfl
@[simp] theorem State.withRgbaOut_noRunPending (b : Buffer) : (s.withRgbaOut b).noRunPending = s.noRunPending := rfl
@[simp] theorem State.withRequests_buffer (r : List Request) (sp : Space) : (s.withRequests r).buffer sp = s.buffer sp := by cases sp <;> rfl
@[simp] theorem State.withRequests_remain (r : List Request) : (s.withRequests r).remain = s.remain := rfl
@[simp] theorem State.withRequests_insideRun (r : List Request) : (s.withRequests r).insideRun = s.insideRun := rfl
@[simp] theorem State.withRequests_noRunPending (r : List Request) : (s.withRequests r).noRunPending = s.noRunPending := rfl

@[simp] theorem State.buffer_rgbaIn : s.buffer .rgbaIn = s.rgbaIn := rfl
@[simp] theorem State.buffer_comp : s.buffer .comp = s.comp := rfl
@[simp] theorem State.buffer_rgbaOut : s.buffer .rgbaOut = s.rgbaOut := rfl
@[simp] theorem State.withBuffer_rgbaIn (b : Buffer) : s.withBuffer .rgbaIn b = s.withRgbaIn b := rfl
@[simp] theorem State.withBuffer_comp (b : Buffer) : s.withBuffer .comp b = s.withComp b := rfl
@[simp] theorem State.withBuffer_rgbaOut (b : Buffer) : s.withBuffer .rgbaOut b = s.withRgbaOut b := rfl
@[simp] theorem Buffer.withLen_len (b : Buffer) (n : Len) : (b.withLen n).len = n := rfl
@[simp] theorem Buffer.withLen_mem (b : Buffer) (n : Len) : (b.withLen n).mem = b.mem := rfl
@[simp] theorem Buffer.withMem_len (b : Buffer) (m : Memory) : (b.withMem m).len = b.len := rfl
@[simp] theorem Buffer.withMem_mem (b : Buffer) (m : Memory) : (b.withMem m).mem = m := rfl
@[simp] theorem Buffer.withMem_self (b : Buffer) : b.withMem b.mem = b := rfl
@[simp] theorem Buffer.withMem_withMem (b : Buffer) (m n : Memory) : (b.withMem m).withMem n = b.withMem n := rfl

end Sys2Proof.Machine
end

