-- ==== Sys2Proof/Laws/Ops.lean ====
section
/-! SUPPORT. For each shared operation, what it can answer: one lemma that later proofs cite instead of unfolding the
operation. -/

namespace Sys2Proof.Machine

/-! ## Outcomes -/

@[simp] theorem outcomeOf_ok (t : State) : outcomeOf (.ok t) = .next t := rfl
@[simp] theorem outcomeOf_error (r : Refusal) : outcomeOf (.error r) = .refused r := rfl

/-- An operation has a next state exactly when it does not refuse. -/
theorem outcomeOf_next {x : Except Refusal State} {t : State} : outcomeOf x = .next t ↔ x = .ok t := by
  cases x <;> simp [outcomeOf]

/-- A sequence that succeeds, succeeds in both its parts. -/
theorem bind_ok {α β : Type} {x : Except Refusal α} {f : α → Except Refusal β} {b : β} :
    (x >>= f) = .ok b ↔ ∃ a, x = .ok a ∧ f a = .ok b := by
  cases x <;> simp [bind, Except.bind]

@[simp] theorem ok_bind {α β : Type} (a : α) (f : α → Except Refusal β) : ((Except.ok a) >>= f) = f a := rfl
@[simp] theorem error_bind {α β : Type} (r : Refusal) (f : α → Except Refusal β) :
    ((Except.error r : Except Refusal α) >>= f) = .error r := rfl
@[simp] theorem pure_eq_ok {α : Type} (a : α) : (pure a : Except Refusal α) = .ok a := rfl

/-! ## Buffers -/

/-- MemRead answers the bytes of the buffer, inside its length (R65). -/
theorem memRead_ok {s : State} {sp : Space} {off n : Nat} {bytes : List Byte} :
    memRead s sp off n = .ok bytes ↔
      off + n ≤ (s.buffer sp).len.toNat ∧ bytes = readBytes (s.buffer sp).mem off n := by
  unfold memRead
  split <;> simp_all [eq_comm]

/-- MemWrite changes the bytes written, inside the buffer's length, and nothing else (R65). -/
theorem memWrite_ok {s t : State} {sp : Space} {off : Nat} {bytes : List Byte} :
    memWrite s sp off bytes = .ok t ↔
      off + bytes.length ≤ (s.buffer sp).len.toNat ∧
      t = s.withBuffer sp ((s.buffer sp).withMem (writeBytes (s.buffer sp).mem off bytes)) := by
  unfold memWrite
  split <;> simp_all [eq_comm]

/-! ## Registers of a call -/

@[simp] theorem failureCode_invalidDimensions : failureCode .invalidDimensions = 1 := rfl
@[simp] theorem failureCode_bufferLengthMismatch : failureCode .bufferLengthMismatch = 2 := rfl
@[simp] theorem failureCode_insufficientCompressedData : failureCode .insufficientCompressedData = 3 := rfl

/-- `raise` writes STATUS and nothing else (R286). -/
theorem raise_eq (s : State) (e : Failure) : s.raise e = s.withStatus (failureCode e) 0 := rfl

/-- The end of a successful call writes STATUS and nothing else (R253, R259). -/
theorem succeed_eq (s : State) (n : Len) : s.succeed n = s.withStatus 0 n := rfl

/-- The start of a call writes the descriptor and drops the last component result (R32). -/
theorem startCall_eq (s : State) (op : Code) (w h : Dim) (n c : Len) :
    s.startCall op w h n c = (s.withCmd op w h n c).withResult .noResult := rfl

/-- ENCODE's checks pass exactly on these descriptors (R251). -/
theorem encodeCheck_none {w h : Dim} {n c : Len} :
    encodeCheck w h n c = none ↔
      w.toNat % 8 = 0 ∧ n.toNat = frameBytes w h ∧ frameBytes w h ≤ c.toNat := by
  unfold encodeCheck
  split
  · simp_all
  · split
    · simp_all
    · split <;> simp_all

/-- DECODE's checks pass exactly on these descriptors (R256). -/
theorem decodeCheck_none {w h : Dim} {c : Len} :
    decodeCheck w h c = none ↔ w.toNat % 8 = 0 ∧ c.toNat = frameBytes w h := by
  unfold decodeCheck
  split
  · simp_all
  · split <;> simp_all

/-- With the width a multiple of 8, a frame is a whole number of batches (R252). -/
theorem frameBytes_batches {w h : Dim} (hw : w.toNat % 8 = 0) : frameBytes w h = 32 * (frameBytes w h / 32) := by
  obtain ⟨k, hk⟩ : ∃ k, w.toNat = 8 * k := ⟨w.toNat / 8, by omega⟩
  have : frameBytes w h = 32 * (k * h.toNat) := by rw [frameBytes, hk]; ring
  omega

/-! ## The encoder -/

/-- EMIT: 8 bytes at ENC.WC if they fit (R192, R199). -/
theorem emit_eq (w : Word64) (s : State) :
    emit w s =
      if s.encWc.toNat + 8 ≤ s.comp.len.toNat then
        .ok ((s.withComp (s.comp.withMem (writeBytes s.comp.mem s.encWc.toNat (be64Bytes w)))).withEncoder
          s.encLw s.encMc (s.encWc + 8))
      else .error (.outsideBuffer .comp) := by
  by_cases h : s.encWc.toNat + 8 ≤ s.comp.len.toNat
  · have hm : memWrite s .comp s.encWc.toNat (be64Bytes w) = .ok _ := memWrite_ok.mpr ⟨h, rfl⟩
    rw [if_pos h, emit, hm]
    rfl
  · have hm : memWrite s .comp s.encWc.toNat (be64Bytes w) = .error (.outsideBuffer .comp) := if_neg h
    rw [if_neg h, emit, hm]
    rfl

theorem toNat_add_eight {a b : Len} (h : a.toNat + 8 ≤ b.toNat) : (a + 8).toNat = a.toNat + 8 := by
  have := b.isLt
  have h8 : (8 : Len).toNat = 8 := rfl
  rw [BitVec.toNat_add, h8]
  omega

/-- Words one behind the other at ENC.WC. -/
def emitAll : List Word64 → State → Except Refusal State
  | [], s => .ok s
  | w :: ws, s => do emitAll ws (← emit w s)

/-- Several EMITs are one write of all their bytes, if the last of them fits. -/
theorem emitAll_eq (ws : List Word64) (s : State) :
    emitAll ws s =
      if s.encWc.toNat + 8 * ws.length ≤ s.comp.len.toNat ∨ ws = [] then
        .ok ((s.withComp (s.comp.withMem (writeBytes s.comp.mem s.encWc.toNat (ws.flatMap be64Bytes)))).withEncoder
          s.encLw s.encMc (s.encWc + BitVec.ofNat 64 (8 * ws.length)))
      else .error (.outsideBuffer .comp) := by
  induction ws generalizing s with
  | nil => simp [emitAll, writeBytes, State.withComp, State.withEncoder]
  | cons w ws ih =>
    rw [emitAll, emit_eq]
    by_cases h : s.encWc.toNat + 8 ≤ s.comp.len.toNat
    · rw [if_pos h, ok_bind, ih]
      simp only [State.withEncoder_encWc, State.withEncoder_comp, State.withComp_comp, toNat_add_eight h,
        Buffer.withMem_len, Buffer.withMem_mem, Buffer.withMem_withMem,
        List.length_cons, List.flatMap_cons, reduceCtorEq, or_false]
      rw [show s.encWc.toNat + 8 + 8 * ws.length = s.encWc.toNat + 8 * (ws.length + 1) by omega]
      by_cases hw : ws = []
      · subst hw
        rw [if_pos (.inr rfl), if_pos (by simpa using h)]
        simp [writeBytes, State.withComp, State.withEncoder]
      · simp only [hw, or_false]
        split
        · rw [show s.encWc.toNat + 8 = s.encWc.toNat + (be64Bytes w).length by simp, writeBytes_append]
          simp only [State.withComp, State.withEncoder, Except.ok.injEq]
          congr 1
          have h8 : (8 : Len).toNat = 8 := rfl
          apply BitVec.eq_of_toNat_eq
          simp only [BitVec.toNat_add, BitVec.toNat_ofNat, h8]
          omega
        · rfl
    · rw [if_neg h, error_bind, if_neg]
      simp only [List.length_cons, reduceCtorEq, or_false]
      omega

/-- The words RLE.FLUSH emits for a pending run (R192). -/
def flushWords (s : State) : List Word64 :=
  if s.encMc.toNat ≤ 3 then List.replicate s.encMc.toNat s.encLw else [marker, s.encMc, s.encLw]

theorem rleFlush_emitAll (s : State) : rleFlush s = emitAll (flushWords s) s := by
  have key : ∀ (w : Word64) (t : State), emit w t = emitAll [w] t := by
    intro w t; simp only [emitAll]; cases emit w t <;> rfl
  unfold rleFlush flushWords
  split
  next h => simp [h, emitAll]
  next h => simp [h, key]
  next h =>
    simp only [h, emitAll, Nat.reduceLeDiff, if_true, List.replicate]
    cases h1 : emit s.encLw s with
    | error e => rfl
    | ok t => simp only [ok_bind]; cases emit s.encLw t <;> rfl
  next h =>
    simp only [h, emitAll, Nat.le_refl, if_true, List.replicate]
    cases h1 : emit s.encLw s with
    | error e => rfl
    | ok t =>
      simp only [ok_bind]
      cases h2 : emit s.encLw t with
      | error e => rfl
      | ok u => simp only [ok_bind]; cases emit s.encLw u <;> rfl
  next h0 h1 h2 h3 =>
    have h4 : ¬ s.encMc.toNat ≤ 3 := by
      intro h
      have : s.encMc.toNat = 0 ∨ s.encMc.toNat = 1 ∨ s.encMc.toNat = 2 ∨ s.encMc.toNat = 3 := by omega
      simp_all
    simp only [h4, if_false, emitAll]
    cases h1 : emit marker s with
    | error e => rfl
    | ok t =>
      simp only [ok_bind]
      cases h2 : emit s.encMc t with
      | error e => rfl
      | ok u => simp only [ok_bind]; cases emit s.encLw u <;> rfl

theorem recordsBytes_literals (v : Word64) (n : Nat) :
    recordsBytes (List.replicate n (.lit v)) = (List.replicate n v).flatMap be64Bytes := by
  induction n with
  | zero => rfl
  | succ n ih =>
    rw [List.replicate_succ, List.replicate_succ, List.flatMap_cons, ← ih]
    rfl

/-- The bytes of a pending run are the bytes of the words flushed for it. -/
theorem pendingBytes_eq (s : State) : pendingBytes s = (flushWords s).flatMap be64Bytes := by
  unfold pendingBytes runRecords flushWords
  split
  · exact recordsBytes_literals _ _
  · simp [recordsBytes, recordBytes, encode]

theorem pendingBytes_length (s : State) : (pendingBytes s).length = 8 * (flushWords s).length := by
  rw [pendingBytes_eq]
  induction flushWords s with
  | nil => rfl
  | cons w ws ih => simp [List.flatMap_cons, ih]; omega

/-- A pending run costs 8, 16 or 24 bytes, and none if there is no run (R192). -/
theorem pendingBytes_length_eq (s : State) :
    (pendingBytes s).length = if s.encMc.toNat ≤ 3 then 8 * s.encMc.toNat else 24 := by
  rw [pendingBytes_length, flushWords]
  split <;> simp

/-- RLE.FLUSH writes the records of the pending run at ENC.WC and moves ENC.WC past them, if they fit (R192, R199). -/
theorem rleFlush_eq (s : State) :
    rleFlush s =
      if s.encWc.toNat + (pendingBytes s).length ≤ s.comp.len.toNat ∨ s.encMc = 0 then
        .ok ((s.withComp (s.comp.withMem (writeBytes s.comp.mem s.encWc.toNat (pendingBytes s)))).withEncoder
          s.encLw s.encMc (s.encWc + BitVec.ofNat 64 (pendingBytes s).length))
      else .error (.outsideBuffer .comp) := by
  have h : flushWords s = [] ↔ s.encMc = 0 := by
    unfold flushWords
    constructor
    · intro h
      split at h
      · apply BitVec.eq_of_toNat_eq
        simpa using h
      · simp at h
    · intro h; simp [h]
  rw [rleFlush_emitAll, emitAll_eq, pendingBytes_length, pendingBytes_eq]
  simp only [h]

/-- The three cases of RLE.PUSH (R191). -/
theorem rlePush_eq (word : Word64) (s : State) :
    rlePush word s =
      if s.encMc = 0 then .ok (s.withEncoder word 1 s.encWc)
      else if word = s.encLw then .ok (s.withEncoder s.encLw (s.encMc + 1) s.encWc)
      else (rleFlush s).map (fun t => t.withEncoder word 1 t.encWc) := by
  unfold rlePush State.noRunPending
  by_cases h : s.encMc = 0
  · simp [h]
  · simp only [h, beq_iff_eq, if_false]
    split
    · rfl
    · cases rleFlush s <;> rfl

/-- RLE.FINISH is a flush, then no run is pending (R193). -/
theorem rleFinish_eq (s : State) :
    rleFinish s = (rleFlush s).map (fun t => (t.withEncoder t.encLw 0 t.encWc).withEncFinished true) := by
  unfold rleFinish
  cases rleFlush s <;> rfl

/-- What a flush can change: COMP's contents and ENC.WC. -/
theorem rleFlush_frame {s t : State} (h : rleFlush s = .ok t) :
    t = (s.withComp (s.comp.withMem t.comp.mem)).withEncoder s.encLw s.encMc t.encWc ∧
    (s.comp.mem.wf = true → t.comp.mem.wf = true) ∧
    (s.encWc.toNat % 8 = 0 → t.encWc.toNat % 8 = 0) := by
  rw [rleFlush_eq] at h
  split at h
  · injection h with h
    subst h
    refine ⟨rfl, fun hm => writeBytes_wf _ _ hm, fun h8 => ?_⟩
    simp only [State.withEncoder_encWc, BitVec.toNat_add, BitVec.toNat_ofNat, pendingBytes_length]
    omega
  · exact absurd h (by simp)

/-- What a push can change: COMP's contents and the encoder's registers. -/
theorem rlePush_frame {word : Word64} {s t : State} (h : rlePush word s = .ok t) :
    t = (s.withComp (s.comp.withMem t.comp.mem)).withEncoder t.encLw t.encMc t.encWc ∧
    (s.comp.mem.wf = true → t.comp.mem.wf = true) ∧
    (s.encWc.toNat % 8 = 0 → t.encWc.toNat % 8 = 0) := by
  rw [rlePush_eq] at h
  split at h
  · injection h with h; subst h; exact ⟨rfl, id, id⟩
  · split at h
    · injection h with h; subst h; exact ⟨rfl, id, id⟩
    · cases hf : rleFlush s with
      | error e => rw [hf] at h; exact absurd h (by simp [Except.map])
      | ok u =>
        rw [hf] at h
        injection h with h
        obtain ⟨h1, h2, h3⟩ := rleFlush_frame hf
        subst h
        refine ⟨?_, h2, h3⟩
        conv => lhs; rw [h1]
        rfl

/-- What finishing can change: COMP's contents, the encoder's registers, the mark of the ended stream. -/
theorem rleFinish_frame {s t : State} (h : rleFinish s = .ok t) :
    t = ((s.withComp (s.comp.withMem t.comp.mem)).withEncoder s.encLw 0 t.encWc).withEncFinished true ∧
    (s.comp.mem.wf = true → t.comp.mem.wf = true) ∧
    (s.encWc.toNat % 8 = 0 → t.encWc.toNat % 8 = 0) := by
  rw [rleFinish_eq] at h
  cases hf : rleFlush s with
  | error e => rw [hf] at h; exact absurd h (by simp [Except.map])
  | ok u =>
    rw [hf] at h
    injection h with h
    obtain ⟨h1, h2, h3⟩ := rleFlush_frame hf
    subst h
    refine ⟨?_, h2, h3⟩
    conv => lhs; rw [h1]
    rfl

/-! ## The decoder -/

/-- A word of COMP, inside its length (R14). -/
theorem w64_ok {s : State} {off : Nat} {v : Word64} :
    w64 s off = .ok v ↔ off + 8 ≤ s.comp.len.toNat ∧ v = be64At (readBytes s.comp.mem off 8) 0 := by
  unfold w64
  constructor
  · intro h
    obtain ⟨bytes, h1, h2⟩ := bind_ok.mp h
    obtain ⟨h3, h4⟩ := memRead_ok.mp h1
    subst h4
    injection h2 with h2
    exact ⟨h3, h2.symm⟩
  · rintro ⟨h1, rfl⟩
    exact bind_ok.mpr ⟨_, memRead_ok.mpr ⟨h1, rfl⟩, rfl⟩

theorem enterRun_ok {l : Count} {s t : State} :
    enterRun l s = .ok t ↔ l ≠ 0 ∧ t = s.withDecoder (s.decRo + 16) (l - 1) := by
  by_cases h : l = 0
  · rw [enterRun, if_pos h]
    exact ⟨fun h' => (nomatch h'), fun h' => absurd h h'.1⟩
  · rw [enterRun, if_neg h]
    exact ⟨fun h' => ⟨h, (Except.ok.inj h').symm⟩, fun h' => congrArg _ h'.2.symm⟩

/-- Everything RLD.READ can do (R225): the end of the stream, a delivery inside a run, a run header, a literal. -/
theorem rldRead_cases {s t : State} {v : Option Word64} (h : rldRead s = .ok (v, t)) :
    (s.remain < 8 ∧ v = none ∧ t = s) ∨
    (8 ≤ s.remain ∧ s.decRr ≠ 0 ∧ ∃ x, w64 s s.decRo.toNat = .ok x ∧ v = some x ∧
      t = s.withDecoder (if s.decRr = 1 then s.decRo + 8 else s.decRo) (s.decRr - 1)) ∨
    (24 ≤ s.remain ∧ s.decRr = 0 ∧ w64 s s.decRo.toNat = .ok marker ∧
      ∃ l x, w64 s (s.decRo.toNat + 8) = .ok l ∧ l ≠ 0 ∧ w64 s (s.decRo + 16).toNat = .ok x ∧ v = some x ∧
        t = s.withDecoder
          (if l = 1 ∧ s.config.run1Deliveries = .once then s.decRo + 16 + 8 else s.decRo + 16) (l - 1)) ∨
    (8 ≤ s.remain ∧ s.decRr = 0 ∧ ∃ x, w64 s s.decRo.toNat = .ok x ∧ ¬ (24 ≤ s.remain ∧ x = marker) ∧
      v = some x ∧ t = s.withDecoder (s.decRo + 8) 0) := by
  unfold rldRead at h
  split at h
  next h8 => injection h with h; injection h with hv ht; exact .inl ⟨h8, hv.symm, ht.symm⟩
  next h8 =>
    have h8' : 8 ≤ s.remain := by omega
    split at h
    next hin =>
      have hrr : s.decRr ≠ 0 := by simpa only [State.insideRun, bne_iff_ne] using hin
      obtain ⟨x, hx, hd⟩ := bind_ok.mp h
      injection hd with hd
      refine .inr (.inl ⟨h8', hrr, x, hx, ?_⟩)
      by_cases h1 : s.decRr = 1
      · have h0 : (s.withDecoder s.decRo (s.decRr - 1)).insideRun = false := by
          show (s.decRr - 1 != 0) = false
          rw [h1]
          rfl
        rw [h0] at hd
        simp only [Bool.false_eq_true, if_false, deliverLiteral, Prod.mk.injEq] at hd
        refine ⟨hd.1.symm, ?_⟩
        rw [← hd.2, if_pos h1]
        rfl
      · have h0 : (s.withDecoder s.decRo (s.decRr - 1)).insideRun = true := by
          have h2 : s.decRr - 1 ≠ 0 := by bv_omega
          exact bne_iff_ne.mpr h2
        rw [h0] at hd
        simp only [if_true, Prod.mk.injEq] at hd
        refine ⟨hd.1.symm, ?_⟩
        rw [← hd.2, if_neg h1]
    next hin =>
      have hrr : s.decRr = 0 := by simpa [State.insideRun] using hin
      obtain ⟨x, hx, hd⟩ := bind_ok.mp h
      split at hd
      next hm =>
        obtain ⟨l, hl, hd⟩ := bind_ok.mp hd
        obtain ⟨u, hu, hd⟩ := bind_ok.mp hd
        obtain ⟨y, hy, hd⟩ := bind_ok.mp hd
        obtain ⟨hl0, rfl⟩ := enterRun_ok.mp hu
        injection hd with hd
        refine .inr (.inr (.inl ⟨hm.1, hrr, hm.2 ▸ hx, l, y, hl, hl0, hy, ?_⟩))
        unfold deliverRunHead at hd
        by_cases h1 : l = 1 ∧ s.config.run1Deliveries = .once
        · rw [if_pos (by simpa using h1)] at hd
          injection hd with hv ht
          refine ⟨hv.symm, ?_⟩
          rw [← ht, if_pos h1]
          rfl
        · rw [if_neg (by simpa using h1)] at hd
          injection hd with hv ht
          refine ⟨hv.symm, ?_⟩
          rw [← ht, if_neg h1]
      next hm =>
        injection hd with hd
        injection hd with hv ht
        refine .inr (.inr (.inr ⟨h8', hrr, x, hx, hm, hv.symm, ?_⟩))
        rw [← ht, hrr]

/-- What RLD.READ can change: DEC.RO and DEC.RR. -/
theorem rldRead_frame {s t : State} {v : Option Word64} (h : rldRead s = .ok (v, t)) :
    t = s.withDecoder t.decRo t.decRr := by
  rcases rldRead_cases h with ⟨_, _, rfl⟩ | ⟨_, _, _, _, _, rfl⟩ | ⟨_, _, _, _, _, _, _, _, _, rfl⟩ |
    ⟨_, _, _, _, _, _, rfl⟩ <;> rfl

end Sys2Proof.Machine
end

