-- ==== Sys2Proof/Laws/PerInstr.lean ====
section
/-! SUPPORT. Facts about every instruction as syntax, one lemma for each constructor of Instr. -/

namespace Sys2Proof.Laws

/-- The encoding of an instruction has the length of its form: an operation its code and as many operand bytes as the
code takes, INV.RGB with its unbounded rationals at least so many (R93, R94), a record 8 bytes or, with MARKER first,
24 (R87), a datum the bytes of its format (R80, R81, R83). -/
def EncodedLength.Statement (i : Instr) : Prop :=
  match Sys2Proof.encode i with
  | .request (.operation bytes) =>
    1 + operandBytes (Machine.byteAt bytes 0) ≤ bytes.length ∧
    (Machine.byteAt bytes 0 ≠ 0x24 → bytes.length = 1 + operandBytes (Machine.byteAt bytes 0))
  | .request (.datum .word64 bytes) => bytes.length = 8
  | .request (.datum _ bytes) => bytes.length = 4
  | .record bytes => bytes.length = 8 ∨ bytes.length = 24 ∧ Machine.be64At bytes 0 = marker

theorem EncodedLength.profileSel (height : Dim) : EncodedLength.Statement (.profileSel height) := ⟨Nat.le_refl _, fun _ => rfl⟩
theorem EncodedLength.fwdY (r g b : Byte) : EncodedLength.Statement (.fwdY r g b) := ⟨Nat.le_refl _, fun _ => rfl⟩
theorem EncodedLength.fwdCb (r g b : Byte) : EncodedLength.Statement (.fwdCb r g b) := ⟨Nat.le_refl _, fun _ => rfl⟩
theorem EncodedLength.fwdCr (r g b : Byte) : EncodedLength.Statement (.fwdCr r g b) := ⟨Nat.le_refl _, fun _ => rfl⟩
theorem EncodedLength.fwdA (a : Byte) : EncodedLength.Statement (.fwdA a) := ⟨Nat.le_refl _, fun _ => rfl⟩
theorem EncodedLength.pack (a c y : Field10) : EncodedLength.Statement (.pack a c y) := ⟨Nat.le_refl _, fun _ => rfl⟩
theorem EncodedLength.fwdPair (p1 p2 : Pixel) : EncodedLength.Statement (.fwdPair p1 p2) := ⟨Nat.le_refl _, fun _ => rfl⟩
theorem EncodedLength.fwdBatch (p : Batch) : EncodedLength.Statement (.fwdBatch p) := ⟨Nat.le_refl _, fun _ => rfl⟩
theorem EncodedLength.unpack (w : Word32) : EncodedLength.Statement (.unpack w) := ⟨Nat.le_refl _, fun _ => rfl⟩
theorem EncodedLength.invY (y : Field10) : EncodedLength.Statement (.invY y) := ⟨Nat.le_refl _, fun _ => rfl⟩
theorem EncodedLength.invUv (uv : Field10) : EncodedLength.Statement (.invUv uv) := ⟨Nat.le_refl _, fun _ => rfl⟩
theorem EncodedLength.invA (a : Field10) : EncodedLength.Statement (.invA a) := ⟨Nat.le_refl _, fun _ => rfl⟩
theorem EncodedLength.invRgb (y cb cr : Q) : EncodedLength.Statement (.invRgb y cb cr) := by
  have h := rationalBytes_length
  refine ⟨?_, fun h0 => absurd rfl h0⟩
  simp only [List.length_cons, List.length_append]
  have h1 := h y; have h2 := h cb; have h3 := h cr
  show 1 + 6 ≤ _
  omega
theorem EncodedLength.invPair (w : Word64) : EncodedLength.Statement (.invPair w) := ⟨Nat.le_refl _, fun _ => rfl⟩
theorem EncodedLength.invBatch (w0 w1 w2 w3 : Word64) : EncodedLength.Statement (.invBatch w0 w1 w2 w3) := ⟨Nat.le_refl _, fun _ => rfl⟩
theorem EncodedLength.rleInit : EncodedLength.Statement .rleInit := ⟨Nat.le_refl _, fun _ => rfl⟩
theorem EncodedLength.rlePush (w : Word64) : EncodedLength.Statement (.rlePush w) := ⟨Nat.le_refl _, fun _ => rfl⟩
theorem EncodedLength.rleFlush : EncodedLength.Statement .rleFlush := ⟨Nat.le_refl _, fun _ => rfl⟩
theorem EncodedLength.rleFinish : EncodedLength.Statement .rleFinish := ⟨Nat.le_refl _, fun _ => rfl⟩
theorem EncodedLength.rldInit (n : Len) : EncodedLength.Statement (.rldInit n) := ⟨Nat.le_refl _, fun _ => rfl⟩
theorem EncodedLength.rldRead : EncodedLength.Statement .rldRead := ⟨Nat.le_refl _, fun _ => rfl⟩
theorem EncodedLength.encode (w h : Dim) (n c : Len) : EncodedLength.Statement (.encode w h n c) := ⟨Nat.le_refl _, fun _ => rfl⟩
theorem EncodedLength.decode (w h : Dim) (n c : Len) : EncodedLength.Statement (.decode w h n c) := ⟨Nat.le_refl _, fun _ => rfl⟩
theorem EncodedLength.lit (v : Word64) : EncodedLength.Statement (.lit v) := Or.inl rfl
theorem EncodedLength.run (n : Count) (v : Word64) : EncodedLength.Statement (.run n v) :=
  Or.inr ⟨rfl, by simpa using Machine.be64At_be64Bytes [] (Machine.be64Bytes n ++ Machine.be64Bytes v) marker⟩
theorem EncodedLength.packedWord32 (a c y : Field10) : EncodedLength.Statement (.packedWord32 a c y) := rfl
theorem EncodedLength.word64 (w1 w2 : Word32) : EncodedLength.Statement (.word64 w1 w2) := rfl
theorem EncodedLength.pixel (p : Pixel) : EncodedLength.Statement (.pixel p) := rfl

end Sys2Proof.Laws
end

