-- ==== Sys2Proof/Laws/Pipeline.lean ====
section
/-! SUPPORT. What the loops of ENCODE and DECODE can change. -/

namespace Sys2Proof.Machine

/-! ## ENCODE -/

/-- The registers and the buffer that the encoder's side of ENCODE may change. -/
def State.encoderMoved (s t : State) (n : Len) : Prop :=
  t = ((s.withComp (s.comp.withMem t.comp.mem)).withEncoder t.encLw t.encMc t.encWc).withPipeBi n ∧
  (s.comp.mem.wf = true → t.comp.mem.wf = true) ∧
  (s.encWc.toNat % 8 = 0 → t.encWc.toNat % 8 = 0)

theorem encoderMoved_refl (s : State) : s.encoderMoved s s.pipeBi := ⟨rfl, id, id⟩

theorem encoderMoved_trans {s t u : State} {n k : Len} (h1 : s.encoderMoved t n) (h2 : t.encoderMoved u k) :
    s.encoderMoved u k := by
  refine ⟨?_, h2.2.1 ∘ h1.2.1, h2.2.2 ∘ h1.2.2⟩
  conv => lhs; rw [h2.1]
  conv => lhs; rw [h1.1]
  rfl

theorem encoderMoved_push {word : Word64} {s t : State} (h : rlePush word s = .ok t) : s.encoderMoved t s.pipeBi := by
  obtain ⟨h1, h2, h3⟩ := rlePush_frame h
  refine ⟨?_, h2, h3⟩
  conv => lhs; rw [h1]
  rfl

/-- One batch of ENCODE moves the encoder and counts the batch (R252). -/
theorem encodeBatch_frame {s t : State} (h : encodeBatch s = .ok t) : s.encoderMoved t (s.pipeBi + 1) := by
  unfold encodeBatch at h
  obtain ⟨bytes, _, h⟩ := bind_ok.mp h
  obtain ⟨a, ha, h⟩ := bind_ok.mp h
  obtain ⟨b, hb, h⟩ := bind_ok.mp h
  obtain ⟨c, hc, h⟩ := bind_ok.mp h
  obtain ⟨d, hd, h⟩ := bind_ok.mp h
  have m1 := encoderMoved_push ha
  have m2 := encoderMoved_push hb
  have m3 := encoderMoved_push hc
  have m4 := encoderMoved_push hd
  have m := encoderMoved_trans m1 (encoderMoved_trans m2 (encoderMoved_trans m3 m4))
  have hp : d.pipeBi = s.pipeBi := by
    rw [m4.1, State.withPipeBi_pipeBi, m3.1, State.withPipeBi_pipeBi, m2.1, State.withPipeBi_pipeBi, m1.1,
      State.withPipeBi_pipeBi]
  injection h with h
  subst h
  rw [hp]
  refine ⟨?_, m.2.1, m.2.2⟩
  conv => lhs; rw [m.1]
  rfl

/-- The batches of ENCODE move the encoder and nothing else (R252). -/
theorem encodeBatches_frame {n : Nat} {s t : State} (h : encodeBatches n s = .ok t) : s.encoderMoved t t.pipeBi := by
  induction n generalizing s with
  | zero =>
    injection h with h
    subst h
    exact encoderMoved_refl s
  | succ n ih =>
    rw [encodeBatches] at h
    obtain ⟨a, ha, h⟩ := bind_ok.mp h
    exact encoderMoved_trans (encodeBatch_frame ha) (ih h)

/-- What ENCODE after its checks can change (R251 to R253). -/
theorem encodeFrame_frame {w h : Dim} {n c : Len} {s t : State} (he : encodeFrame w h n c s = .ok t) :
    t = ((((((s.withRgbaIn (s.rgbaIn.withLen n)).withComp ((s.comp.withLen c).withMem t.comp.mem)).withStd
        (standardOf h)).withEncoder t.encLw 0 t.encWc).withPipeBi t.pipeBi).withEncFinished true).withStatus 0 t.encWc ∧
    (s.comp.mem.wf = true → t.comp.mem.wf = true) ∧ t.encWc.toNat % 8 = 0 := by
  unfold encodeFrame at he
  obtain ⟨a, ha, he⟩ := bind_ok.mp he
  obtain ⟨b, hb, he⟩ := bind_ok.mp he
  have m := encodeBatches_frame ha
  obtain ⟨f1, f2, f3⟩ := rleFinish_frame hb
  injection he with he
  subst he
  refine ⟨?_, fun hm => f2 (m.2.1 hm), f3 (m.2.2 (by simp [encodeSetup, rleInit]))⟩
  have e1 : b.encLw = a.encLw := by rw [f1]; rfl
  have e2 : b.pipeBi = a.pipeBi := by rw [f1]; rfl
  simp only [succeed_eq, State.withStatus_comp, State.withStatus_encLw, State.withStatus_encWc,
    State.withStatus_pipeBi, e1, e2]
  generalize b.encWc = wc at *
  generalize b.comp.mem = mem at *
  rw [f1]
  conv => lhs; rw [m.1]
  rfl

/-! ## DECODE -/

/-- The registers that the decoder may change. -/
def State.decoderMoved (s t : State) : Prop := t = s.withDecoder t.decRo t.decRr

theorem decoderMoved_refl (s : State) : s.decoderMoved s := rfl

theorem decoderMoved_trans {s t u : State} (h1 : s.decoderMoved t) (h2 : t.decoderMoved u) : s.decoderMoved u := by
  unfold State.decoderMoved at *
  conv => lhs; rw [h2]
  conv => lhs; rw [h1]
  rfl

/-- Where the four reads of a batch end, they have moved the decoder and nothing else; `P` is any property that
each RLD.READ keeps. -/
theorem readFour_frame {s t : State} {r : Option (Word64 × Word64 × Word64 × Word64)}
    (h : readFour s = .ok (r, t)) (P : State → Prop)
    (hP : ∀ a b v, rldRead a = .ok (v, b) → P a → P b) (hs : P s) : s.decoderMoved t ∧ P t := by
  have step : ∀ {a b : State} {v : Option Word64}, rldRead a = .ok (v, b) → s.decoderMoved a ∧ P a →
      s.decoderMoved b ∧ P b :=
    fun ha hp => ⟨decoderMoved_trans hp.1 (rldRead_frame ha), hP _ _ _ ha hp.2⟩
  have h0 : s.decoderMoved s ∧ P s := ⟨decoderMoved_refl s, hs⟩
  unfold readFour at h
  obtain ⟨⟨v1, a⟩, ha, h⟩ := bind_ok.mp h
  have h1 := step ha h0
  cases v1 with
  | none => injection h with h; injection h with _ h; subst h; exact h1
  | some w1 =>
    obtain ⟨⟨v2, b⟩, hb, h⟩ := bind_ok.mp h
    have h2 := step hb h1
    cases v2 with
    | none => injection h with h; injection h with _ h; subst h; exact h2
    | some w2 =>
      obtain ⟨⟨v3, c⟩, hc, h⟩ := bind_ok.mp h
      have h3 := step hc h2
      cases v3 with
      | none => injection h with h; injection h with _ h; subst h; exact h3
      | some w3 =>
        obtain ⟨⟨v4, d⟩, hd, h⟩ := bind_ok.mp h
        have h4 := step hd h3
        cases v4 <;> (injection h with h; injection h with _ h; subst h; exact h4)

/-- The registers and the buffer that DECODE's loop may change. -/
def State.decodeMoved (s t : State) : Prop :=
  t = ((s.withRgbaOut (s.rgbaOut.withMem t.rgbaOut.mem)).withDecoder t.decRo t.decRr).withPipeBi t.pipeBi ∧
  (s.rgbaOut.mem.wf = true → t.rgbaOut.mem.wf = true)

theorem decodeMoved_refl (s : State) : s.decodeMoved s := ⟨rfl, id⟩

theorem decodeMoved_trans {s t u : State} (h1 : s.decodeMoved t) (h2 : t.decodeMoved u) : s.decodeMoved u := by
  refine ⟨?_, h2.2 ∘ h1.2⟩
  conv => lhs; rw [h2.1]
  conv => lhs; rw [h1.1]
  rfl

/-- One batch of DECODE moves the decoder, and writes and counts the batch only if its four reads succeeded
(R257, R258); `P` is any property that RLD.READ keeps and that looks at nothing DECODE writes. -/
theorem decodeBatch_frame {s t : State} {ok : Bool} (h : decodeBatch s = .ok (ok, t)) (P : State → Prop)
    (hP : ∀ a b v, rldRead a = .ok (v, b) → P a → P b)
    (hW : ∀ (a : State) (o : Buffer) (n : Len), P a → P ((a.withRgbaOut o).withPipeBi n)) (hs : P s) :
    s.decodeMoved t ∧ P t := by
  unfold decodeBatch at h
  obtain ⟨⟨r, a⟩, ha, h⟩ := bind_ok.mp h
  obtain ⟨h1, h2⟩ := readFour_frame ha P hP hs
  unfold State.decoderMoved at h1
  have hm : s.decodeMoved a := by
    refine ⟨?_, ?_⟩
    · conv => lhs; rw [h1]
      rw [h1]
      rfl
    · rw [h1]; exact id
  cases r with
  | none => injection h with h; injection h with _ h; subst h; exact ⟨hm, h2⟩
  | some w =>
    obtain ⟨w0, w1, w2, w3⟩ := w
    obtain ⟨b, hb, h⟩ := bind_ok.mp h
    generalize batchBytes (invBatch a.config a.std w0 w1 w2 w3) = bytes at hb
    obtain ⟨_, rfl⟩ := memWrite_ok.mp hb
    injection h with h
    injection h with _ h
    subst h
    exact ⟨decodeMoved_trans hm ⟨rfl, fun hw => writeBytes_wf _ _ hw⟩, hW _ _ _ h2⟩

/-- The batches of DECODE (R257, R258). -/
theorem decodeBatches_frame {n : Nat} {s t : State} {ok : Bool} (h : decodeBatches n s = .ok (ok, t))
    (P : State → Prop) (hP : ∀ a b v, rldRead a = .ok (v, b) → P a → P b)
    (hW : ∀ (a : State) (o : Buffer) (n : Len), P a → P ((a.withRgbaOut o).withPipeBi n)) (hs : P s) :
    s.decodeMoved t ∧ P t := by
  induction n generalizing s with
  | zero =>
    injection h with h
    injection h with _ h
    subst h
    exact ⟨decodeMoved_refl s, hs⟩
  | succ n ih =>
    rw [decodeBatches] at h
    obtain ⟨⟨r, a⟩, ha, h⟩ := bind_ok.mp h
    obtain ⟨h1, h2⟩ := decodeBatch_frame ha P hP hW hs
    cases r with
    | false => injection h with h; injection h with _ h; subst h; exact ⟨h1, h2⟩
    | true =>
      obtain ⟨h3, h4⟩ := ih h h2
      exact ⟨decodeMoved_trans h1 h3, h4⟩

/-- What DECODE after its checks can change (R256 to R259). -/
theorem decodeFrame_frame {w h : Dim} {n c : Len} {s t : State} (hd : decodeFrame w h n c s = .ok t)
    (P : State → Prop) (hP : ∀ a b v, rldRead a = .ok (v, b) → P a → P b)
    (hW : ∀ (a : State) (o : Buffer) (n : Len), P a → P ((a.withRgbaOut o).withPipeBi n))
    (hS : ∀ (a : State) (e : BitVec 2) (n : Len), P a → P (a.withStatus e n)) (hs : P (decodeSetup h n c s)) :
    t = ((((((s.withComp (s.comp.withLen n)).withRgbaOut ((s.rgbaOut.withLen c).withMem t.rgbaOut.mem)).withStd
        (standardOf h)).withDecLen n).withDecoder t.decRo t.decRr).withPipeBi t.pipeBi).withStatus t.statusErr
        t.statusOutLen ∧
    (s.rgbaOut.mem.wf = true → t.rgbaOut.mem.wf = true) ∧ P t := by
  unfold decodeFrame at hd
  obtain ⟨⟨r, a⟩, ha, hd⟩ := bind_ok.mp hd
  obtain ⟨⟨m1, m2⟩, m3⟩ := decodeBatches_frame ha P hP hW hs
  cases r <;>
  · injection hd with hd
    subst hd
    refine ⟨?_, m2, hS _ _ _ m3⟩
    first | rw [raise_eq] | rw [succeed_eq]
    conv => lhs; rw [m1]
    rfl

end Sys2Proof.Machine
end

