-- ==== Sys2Proof/Tests/Slice0.lean ====
section
/-! SUPPORT. Tests. Expected values come from spec/95_test_vectors.md (the ids V…, L…), from the rules' own worked
examples (R…), or are written out by hand from the encodings of spec/30_encoding.md; then one witness for the hypotheses
of every obligation that has some. -/

namespace Sys2Proof.Tests

-- One theorem after another: each that waits for the kernel would hold a thread of its own.
set_option Elab.async false

open Machine

/-! ## Helpers -/

/-- The next state of an outcome, if it is one. -/
def nextOf : Host.Outcome State Fault Refusal → Option State
  | .next t => some t
  | _ => none

/-- The refusal of an outcome, if it is one. -/
def refusalOf : Host.Outcome State Fault Refusal → Option Refusal
  | .refused r => some r
  | _ => none

/-- The result field of the next state. -/
def resultOf (o : Host.Outcome State Fault Refusal) : Option Result := (nextOf o).map (fun t => t.result)

theorem exists_next {o : Host.Outcome State Fault Refusal} (h : (nextOf o).isSome = true) : ∃ t, o = .next t := by
  cases o with
  | next t => exact ⟨t, rfl⟩
  | fault f => cases h
  | refused r => cases h

/-- `A`, `B`, `C` of spec/95. -/
def wordA : Word64 := 0x0408004004080040
def wordB : Word64 := 0x3AC803A83AC803A8
def wordC : Word64 := 0x1111111122222222

/-- Reset with PROFILE.STD given. -/
def profiled (x : Standard) : State := State.reset.withStd x

/-- Reset, COMP holding a stream. -/
def withStream (bytes : List Byte) : State := State.reset.hostLoad .comp bytes

/-- The decoder at an offset of a stream, `rr` deliveries owed. -/
def decoderAt (bytes : List Byte) (ro : Len) (rr : Count) : State :=
  ((withStream bytes).withDecLen (BitVec.ofNat 64 bytes.length)).withDecoder ro rr

/-- The encoder with a pending run and `room` bytes of COMP. -/
def encoderAt (lw : Word64) (mc : Count) (wc room : Len) : State :=
  (State.reset.withEncoder lw mc wc).withComp { len := room, mem := [] }

/-- The bytes of `RUN l v`. -/
def runBytes (l : Count) (v : Word64) : List Byte :=
  [0xFE, 0xFE, 0xFE, 0xFE, 0xFE, 0xFE, 0xFE, 0xFE] ++ be64Bytes l ++ be64Bytes v

/-! ## WellFormed -/

theorem test_wellFormed_refuses_run_length_zero : (Instr.run 0 wordA).wellFormed = false := by decide

theorem test_wellFormed_accepts :
    (Instr.invRgb (2 ^ 70) (-2 ^ 70) (mkRat 1 (2 ^ 70))).wellFormed = true ∧ (Instr.run 1 0).wellFormed = true := by
  decide

/-! ## Decode: encodings written out by hand from R80, R81, R83, R87, R93 -/

theorem test_decode_profile :
    decode (.request (.operation [0x00, 0, 0, 2, 0xCF])) = .ok (.profileSel 719) := by decide

theorem test_decode_forward :
    decode (.request (.operation [0x10, 1, 2, 3])) = .ok (.fwdY 1 2 3) ∧
    decode (.request (.operation [0x11, 1, 2, 3])) = .ok (.fwdCb 1 2 3) ∧
    decode (.request (.operation [0x12, 1, 2, 3])) = .ok (.fwdCr 1 2 3) ∧
    decode (.request (.operation [0x13, 7])) = .ok (.fwdA 7) ∧
    decode (.request (.operation [0x14, 0x03, 0xAC, 0x02, 0x00, 0x00, 0x40])) = .ok (.pack 940 512 64) ∧
    decode (.request (.operation [0x15, 1, 2, 3, 4, 5, 6, 7, 8])) = .ok (.fwdPair ⟨1, 2, 3, 4⟩ ⟨5, 6, 7, 8⟩) := by
  decide

theorem test_decode_forward_batch :
    decode (.request (.operation [0x16, 1, 2, 3, 4, 5, 6, 7, 8, 9, 10, 11, 12, 13, 14, 15, 16, 17, 18, 19, 20, 21, 22,
      23, 24, 25, 26, 27, 28, 29, 30, 31, 32])) =
    .ok (.fwdBatch ⟨⟨1, 2, 3, 4⟩, ⟨5, 6, 7, 8⟩, ⟨9, 10, 11, 12⟩, ⟨13, 14, 15, 16⟩, ⟨17, 18, 19, 20⟩,
      ⟨21, 22, 23, 24⟩, ⟨25, 26, 27, 28⟩, ⟨29, 30, 31, 32⟩⟩) := by decide

theorem test_decode_inverse :
    decode (.request (.operation [0x20, 0x3A, 0xC6, 0xD1, 0x44])) = .ok (.unpack 0x3AC6D144) ∧
    decode (.request (.operation [0x21, 0x03, 0xA8])) = .ok (.invY 936) ∧
    decode (.request (.operation [0x22, 0x01, 0xB4])) = .ok (.invUv 436) ∧
    decode (.request (.operation [0x23, 0x03, 0xFF])) = .ok (.invA 1023) ∧
    decode (.request (.operation [0x25, 0x3A, 0xC6, 0xD1, 0x44, 0x1F, 0x7B, 0x7C, 0xA3])) =
      .ok (.invPair 0x3AC6D1441F7B7CA3) := by decide

/-- -608/7, 584 and 3/2: numerators 1215 = 9 * 128 + 63, 1168 = 9 * 128 + 16 and 6, denominators less one. -/
theorem test_decode_inverse_rational :
    decode (.request (.operation [0x24, 0x89, 0x3F, 6, 0x89, 0x10, 0, 6, 1])) = .ok (.invRgb (-608 / 7) 584 (3 / 2)) ∧
    encode (.invRgb (-608 / 7) 584 (3 / 2)) = .request (.operation [0x24, 0x89, 0x3F, 6, 0x89, 0x10, 0, 6, 1]) := by
  decide +kernel

/-- An operand wider than 64 bits, one cut short, and one byte too many. -/
theorem test_decode_wide_rational :
    decode (encode (.invRgb (2 ^ 70) (mkRat (-1) (2 ^ 70)) 0)) = .ok (.invRgb (2 ^ 70) (mkRat (-1) (2 ^ 70)) 0) ∧
    decode (.request (.operation [0x24, 0, 0, 0, 0, 0, 0x80])) = .error (.operandLength 0x24) ∧
    decode (.request (.operation [0x24, 0, 0, 0, 0, 0, 0, 0])) = .error (.operandLength 0x24) := by decide +kernel

theorem test_decode_inverse_batch :
    decode (.request (.operation [0x26, 1, 2, 3, 4, 5, 6, 7, 8, 9, 10, 11, 12, 13, 14, 15, 16, 17, 18, 19, 20, 21, 22,
      23, 24, 25, 26, 27, 28, 29, 30, 31, 32])) =
    .ok (.invBatch 0x0102030405060708 0x090A0B0C0D0E0F10 0x1112131415161718 0x191A1B1C1D1E1F20) := by decide

theorem test_decode_run_length :
    decode (.request (.operation [0x30])) = .ok .rleInit ∧
    decode (.request (.operation [0x31, 0x04, 0x08, 0x00, 0x40, 0x3A, 0xC8, 0x03, 0xA8])) =
      .ok (.rlePush 0x040800403AC803A8) ∧
    decode (.request (.operation [0x32])) = .ok .rleFlush ∧
    decode (.request (.operation [0x33])) = .ok .rleFinish ∧
    decode (.request (.operation [0x40, 0, 0, 0, 0, 0, 0, 1, 2])) = .ok (.rldInit 258) ∧
    decode (.request (.operation [0x41])) = .ok .rldRead := by decide

theorem test_decode_calls :
    decode (.request (.operation [0x50, 0, 0, 0, 8, 0, 0, 2, 0xD0, 0, 0, 0, 0, 0, 0, 0x5A, 0, 0, 0, 0, 0, 0, 1, 0, 0])) =
      .ok (.encode 8 720 0x5A00 0x10000) ∧
    decode (.request (.operation [0x51, 0, 0, 0, 16, 0, 0, 0, 1, 0, 0, 0, 0, 0, 0, 0, 56, 0, 0, 0, 0, 0, 0, 0, 64])) =
      .ok (.decode 16 1 56 64) := by decide

theorem test_decode_records :
    decode (.record [0x3A, 0xC8, 0x03, 0xA8, 0x04, 0x08, 0x00, 0x40]) = .ok (.lit 0x3AC803A804080040) ∧
    decode (.record [0xFE, 0xFE, 0xFE, 0xFE, 0xFE, 0xFE, 0xFE, 0xFE, 0, 0, 0, 0, 0, 0, 0x03, 0xE8,
      0x04, 0x08, 0x00, 0x40, 0x3A, 0xC8, 0x03, 0xA8]) = .ok (.run 1000 0x040800403AC803A8) := by decide

theorem test_decode_data :
    decode (.request (.datum .packedWord32 [0x1F, 0x7B, 0x7C, 0xA3])) = .ok (.packedWord32 503 735 163) ∧
    decode (.request (.datum .packedWord32 [0xDF, 0x7B, 0x7C, 0xA3])) = .ok (.packedWord32 503 735 163) ∧
    decode (.request (.datum .word64 [0x3A, 0xC6, 0xD1, 0x44, 0x1F, 0x7B, 0x7C, 0xA3])) =
      .ok (.word64 0x3AC6D144 0x1F7B7CA3) ∧
    decode (.request (.datum .pixel [255, 0, 1, 128])) = .ok (.pixel ⟨255, 0, 1, 128⟩) := by decide

theorem test_decode_refuses_by_name :
    decode (.request (.operation [])) = .error .noCode ∧
    decode (.request (.operation [0x17])) = .error (.reservedCode 0x17) ∧
    decode (.request (.operation [0x10, 1, 2])) = .error (.operandLength 0x10) ∧
    decode (.request (.operation [0x21, 0x04, 0x00])) = .error (.operandRange 0x21) ∧
    decode (.request (.datum .pixel [1])) = .error (.datumLength .pixel) ∧
    decode (.record [1, 2, 3, 4, 5, 6, 7]) = .error .endOfStream ∧
    decode (.record [1, 2, 3, 4, 5, 6, 7, 8, 9]) = .error .recordLength := by decide

/-- R88: MARKER with fewer than 24 bytes left is a literal (V162), and what follows a record is left over. -/
theorem test_decode_record_boundary :
    decodeRecord ((runBytes 4 wordA).take 23) =
      .ok (.lit 0xFEFEFEFEFEFEFEFE, ((runBytes 4 wordA).take 23).drop 8) ∧
    decodeRecord (runBytes 4 wordA ++ be64Bytes wordB) = .ok (.run 4 wordA, be64Bytes wordB) := by decide

/-- The rows of the opcode table by their match values, operand bits zero. -/
theorem test_table_words :
    decodeTableWord 8 0x00 = some (.profileSel 0) ∧ decodeTableWord 8 0x13 = some (.fwdA 0) ∧
    decodeTableWord 8 0x25 = some (.invPair 0) ∧ decodeTableWord 8 0x33 = some .rleFinish ∧
    decodeTableWord 8 0x41 = some .rldRead ∧ decodeTableWord 8 0x51 = some (.decode 0 0 0 0) ∧
    decodeTableWord 8 0x02 = none ∧ decodeTableWord 32 0x3AC6D144 = some (.packedWord32 940 436 324) ∧
    decodeTableWord 64 0xFEFEFEFEFEFEFEFE = some (.run 0 0) ∧ decodeTableWord 64 5 = some (.lit 5) := by decide

/-- A row placed at reset is what the next step runs. -/
theorem test_step_runs_a_table_word :
    (nextOf (step (State.reset.withFetchWord 8 0x33))).map (fun t => t.result) = some (.byteCount 0) ∧
    (nextOf (step (State.reset.withFetchWord 64 7))).map (fun t => t.result) = some (.sample (some 7)) := by
  decide +kernel

/-! ## Instructions -/

/-- V3, V2. -/
theorem test_profileSel :
    (nextOf (exec (.profileSel 720) State.reset)).map (fun t => t.std) = some .bt709 ∧
    (nextOf (exec (.profileSel 719) (profiled .bt709))).map (fun t => t.std) = some .bt601 := by decide +kernel

/-- V8, V10 (BT.601) and V23 (BT.709). -/
theorem test_fwdY :
    resultOf (exec (.fwdY 255 0 0) (profiled .bt601)) = some (.field10 324) ∧
    resultOf (exec (.fwdY 0 0 255) (profiled .bt601)) = some (.field10 163) ∧
    resultOf (exec (.fwdY 0 0 255) (profiled .bt709)) = some (.field10 127) := by decide +kernel

/-- V17 and V31. -/
theorem test_fwdCb :
    resultOf (exec (.fwdCb 10 20 30) (profiled .bt601)) = some (.field10 523) ∧
    resultOf (exec (.fwdCb 200 100 50) (profiled .bt709)) = some (.field10 448) := by decide +kernel

/-- V18 and V30. -/
theorem test_fwdCr :
    resultOf (exec (.fwdCr 200 100 50) (profiled .bt601)) = some (.field10 606) ∧
    resultOf (exec (.fwdCr 10 20 30) (profiled .bt709)) = some (.field10 502) := by decide +kernel

/-- V44, V45. -/
theorem test_fwdA :
    resultOf (exec (.fwdA 254) State.reset) = some (.field10 936) ∧
    resultOf (exec (.fwdA 255) State.reset) = some (.field10 940) := by decide +kernel

/-- V50, V52. -/
theorem test_pack :
    resultOf (exec (.pack 940 436 324) State.reset) = some (.word32 0x3AC6D144) ∧
    resultOf (exec (.pack 1 2 3) State.reset) = some (.word32 0x00100803) := by decide +kernel

/-- V56, V57. -/
theorem test_fwdPair :
    resultOf (exec (.fwdPair ⟨255, 0, 0, 255⟩ ⟨0, 0, 255, 128⟩) (profiled .bt601)) =
      some (.word64 0x3AC6D1441F7B7CA3) ∧
    resultOf (exec (.fwdPair ⟨255, 0, 0, 255⟩ ⟨0, 0, 255, 128⟩) (profiled .bt709)) =
      some (.word64 0x3AC730F91F7B7C7F) := by decide +kernel

/-- The input of V70. -/
def batchV70 : Batch :=
  ⟨⟨255, 255, 255, 255⟩, ⟨255, 255, 255, 255⟩, ⟨255, 0, 0, 255⟩, ⟨0, 0, 255, 128⟩,
   ⟨128, 128, 128, 255⟩, ⟨128, 128, 128, 255⟩, ⟨0, 0, 0, 0⟩, ⟨0, 0, 0, 0⟩⟩

/-- V70. -/
theorem test_fwdBatch :
    resultOf (exec (.fwdBatch batchV70) (profiled .bt601)) =
      some (.words wordB 0x3AC6D1441F7B7CA3 0x3AC801F63AC801F6 wordA) := by decide +kernel

/-- V77, V80. -/
theorem test_unpack :
    resultOf (exec (.unpack 0xC4080040) State.reset) = some (.fields 64 512 64) ∧
    resultOf (exec (.unpack 0x1F7B7CA3) State.reset) = some (.fields 503 735 163) := by decide +kernel

/-- V84, V87. -/
theorem test_invY :
    resultOf (exec (.invY 0) State.reset) = some (.rational (-4096 / 219)) ∧
    resultOf (exec (.invY 324) State.reset) = some (.rational (16640 / 219)) := by decide +kernel

/-- V91, V93. -/
theorem test_invUv :
    resultOf (exec (.invUv 735) State.reset) = some (.rational (1784 / 7)) ∧
    resultOf (exec (.invUv 436) State.reset) = some (.rational (-608 / 7)) := by decide +kernel

/-- V96, V98. -/
theorem test_invA :
    resultOf (exec (.invA 0) State.reset) = some (.rational (-1360 / 73)) ∧
    resultOf (exec (.invA 210) State.reset) = some (.rational (85 / 2)) := by decide +kernel

/-- V105 (its operands are V87, V93, V91) and V109. -/
theorem test_invRgb :
    resultOf (exec (.invRgb (16640 / 219) (-608 / 7) (1784 / 7)) (profiled .bt601)) = some (.rgb 255 0 0) ∧
    resultOf (exec (.invRgb 100 (-300) (-300)) (profiled .bt709)) = some (.rgb 0 198 0) := by decide +kernel

/-- V110 and V124 (a tie). -/
theorem test_invPair :
    resultOf (exec (.invPair 0x3AC6D1441F7B7CA3) (profiled .bt601)) =
      some (.pixels ⟨255, 0, 0, 255⟩ ⟨208, 0, 0, 128⟩) ∧
    resultOf (exec (.invPair 0x0D28004004080040) (profiled .bt601)) =
      some (.pixels ⟨0, 0, 0, 43⟩ ⟨0, 0, 0, 0⟩) := by decide +kernel

/-- R166: at the tie of V124 round-half-even gives 42. -/
theorem test_invPair_half_even :
    resultOf (exec (.invPair 0x0D28004004080040)
      { State.reset with config := { arith := .exactRational, roundTie := .halfEven, run1Deliveries := .twice } }) =
      some (.pixels ⟨0, 0, 0, 42⟩ ⟨0, 0, 0, 0⟩) := by decide +kernel

/-- In another number system INV.PAIR has a next state too (log entry 2). -/
theorem test_invPair_other_number_system :
    (nextOf (exec (.invPair 0) { State.reset with
      config := { arith := .implementation 7, roundTie := .halfUp, run1Deliveries := .twice } })).isSome = true := by
  decide

/-- V138. -/
theorem test_invBatch :
    resultOf (exec (.invBatch wordB 0x3AC6D1441F7B7CA3 0x3AC801F63AC801F6 wordA) (profiled .bt601)) =
      some (.batch { batchV70 with p3 := ⟨208, 0, 0, 128⟩ }) := by decide +kernel

/-- V155, first row. -/
theorem test_rleInit :
    (nextOf (exec .rleInit (encoderAt wordB 3 16 64))).map (fun t => (t.encMc, t.encWc)) = some (0, 0) := by
  decide +kernel

/-- V155, the last RLE.PUSH, and a push of the pending word. -/
theorem test_rlePush :
    (nextOf (exec (.rlePush wordB) (encoderAt wordA 4 0 64))).map
      (fun t => (t.encLw, t.encMc, t.encWc, readBytes t.comp.mem 0 24)) =
      some (wordB, 1, 24, [0xFE, 0xFE, 0xFE, 0xFE, 0xFE, 0xFE, 0xFE, 0xFE, 0, 0, 0, 0, 0, 0, 0, 4, 4, 8, 0, 0x40, 4, 8,
        0, 0x40]) ∧
    (nextOf (exec (.rlePush wordA) (encoderAt wordA 3 0 64))).map (fun t => (t.encLw, t.encMc, t.encWc, t.comp.mem.length)) =
      some (wordA, 4, 0, 0) := by decide +kernel

/-- The flush table of R192: `ENC.MC = 3`, and V146. -/
theorem test_rleFlush :
    (nextOf (exec .rleFlush (encoderAt wordA 3 8 64))).map (fun t => (t.encMc, t.encWc, readBytes t.comp.mem 8 24)) =
      some (3, 32, [4, 8, 0, 0x40, 4, 8, 0, 0x40, 4, 8, 0, 0x40, 4, 8, 0, 0x40, 4, 8, 0, 0x40, 4, 8, 0, 0x40]) ∧
    (nextOf (exec .rleFlush (encoderAt wordA 1000 0 24))).map (fun t => (t.encMc, t.encWc, readBytes t.comp.mem 8 8)) =
      some (1000, 24, [0, 0, 0, 0, 0, 0, 3, 0xE8]) := by decide +kernel

/-- V155, last row, and V139. -/
theorem test_rleFinish :
    (nextOf (exec .rleFinish (encoderAt wordB 1 24 32))).map
      (fun t => (t.encMc, t.encWc, t.result, readBytes t.comp.mem 24 8)) =
      some (0, 32, .byteCount 32, [0x3A, 0xC8, 0x03, 0xA8, 0x3A, 0xC8, 0x03, 0xA8]) ∧
    resultOf (exec .rleFinish (encoderAt wordB 0 0 0)) = some (.byteCount 0) := by decide +kernel

/-- R220. -/
theorem test_rldInit :
    (nextOf (exec (.rldInit 56) (decoderAt (runBytes 4 wordA) 16 3))).map (fun t => (t.decLen, t.decRo, t.decRr)) =
      some (56, 0, 0) := by decide +kernel

/-- V160: the call that reads the header, and the last call inside the run. -/
theorem test_rldRead :
    (nextOf (exec .rldRead (decoderAt (runBytes 4 wordA ++ be64Bytes wordB) 0 0))).map
      (fun t => (t.decRo, t.decRr, t.result)) = some (16, 3, .sample (some wordA)) ∧
    (nextOf (exec .rldRead (decoderAt (runBytes 4 wordA ++ be64Bytes wordB) 16 1))).map
      (fun t => (t.decRo, t.decRr, t.result)) = some (24, 0, .sample (some wordA)) := by decide +kernel

/-- V164, V165: a run record of length 1 under both parameter values. -/
theorem test_rldRead_length_one :
    (readsFrom 4 (decoderAt (runBytes 1 wordC ++ be64Bytes wordB) 0 0)).map (fun r => r.1) =
      some [some wordC, some wordC, some wordB, none] ∧
    (readsFrom 3 { decoderAt (runBytes 1 wordC ++ be64Bytes wordB) 0 0 with
      config := { arith := .exactRational, roundTie := .halfUp, run1Deliveries := .once } }).map (fun r => r.1) =
      some [some wordC, some wordB, none] := by decide +kernel

/-- R226: a LIT record moves DEC.RO by 8, the header of `RUN 4` by 16; L = 0 has no meaning (V168). -/
theorem test_lit_run :
    (nextOf (exec (.lit wordB) (decoderAt [] 24 0))).map (fun t => (t.decRo, t.decRr, t.result)) =
      some (32, 0, .sample (some wordB)) ∧
    (nextOf (exec (.run 4 wordA) (decoderAt [] 0 0))).map (fun t => (t.decRo, t.decRr, t.result)) =
      some (16, 3, .sample (some wordA)) ∧
    refusalOf (exec (.run 0 wordC) (decoderAt [] 0 0)) = some .runLengthZero := by decide +kernel

/-- R81, R83, R80. -/
theorem test_data :
    resultOf (exec (.packedWord32 940 436 324) State.reset) = some (.fields 940 436 324) ∧
    resultOf (exec (.word64 0x04080040 0x3AC803A8) State.reset) = some (.word64 0x040800403AC803A8) ∧
    resultOf (exec (.pixel ⟨1, 2, 3, 4⟩) State.reset) = some (.pixel ⟨1, 2, 3, 4⟩) := by decide +kernel

/-- V173. -/
theorem test_encode :
    (nextOf (exec (.encode 8 1 32 32) State.reset)).map
      (fun t => (t.statusErr, t.statusOutLen, readBytes t.comp.mem 0 24)) =
      some (0, 24, runBytes 4 wordA) := by decide +kernel

/-- V189: the width is tested first. -/
theorem test_encode_width_first :
    (nextOf (exec (.encode 12 1 5 0) State.reset)).map (fun t => (t.statusErr, t.statusOutLen)) = some (1, 0) := by
  decide +kernel

/-- The pixel bytes that V186 leaves: words A, A, B, B. -/
theorem test_decode :
    (nextOf (exec (.decode 8 1 48 32) (withStream (runBytes 1 wordA ++ be64Bytes wordB ++ be64Bytes wordB ++
      be64Bytes wordB)))).map (fun t => (t.statusErr, t.statusOutLen, readBytes t.rgbaOut.mem 0 32)) =
      some (0, 32, List.replicate 16 0 ++ List.replicate 16 255) := by decide +kernel

/-- V184: a cut run header gives two literals, then the end of the stream. -/
theorem test_decode_runs_out :
    (nextOf (exec (.decode 16 1 23 64) (withStream (runBytes 4 wordB)))).map
      (fun t => (t.statusErr, t.statusOutLen, t.rgbaOut.mem)) = some (3, 0, []) := by decide +kernel

/-! ## Witnesses: the hypotheses of each obligation can be met, in each of its clauses -/

/-- A state in the middle of a run, with a request. -/
def midRun : State := (decoderAt (runBytes 4 wordA ++ be64Bytes wordB) 16 1).withRequests [.operation [0x41]]

theorem test_midRun_sound : midRun.sound :=
  ⟨⟨by decide +kernel, by decide +kernel, by decide +kernel⟩, ⟨by decide +kernel, by decide +kernel⟩,
    by decide +kernel, fun _ => by decide +kernel⟩

theorem witness_StepKeepsTheStateSound : midRun.sound ∧ ∃ t, step midRun = .next t :=
  ⟨test_midRun_sound, exists_next (by decide +kernel)⟩

theorem witness_StepRunsTheDecodedInstruction :
    (midRun.requests = .operation [0x41] :: [] ∧ decode (.request (.operation [0x41])) = .ok .rldRead) ∧
    ((State.reset.withRequests [.operation []]).requests = .operation [] :: [] ∧
      decode (.request (.operation [])) = .error .noCode) ∧
    State.reset.requests = [] := by decide

theorem witness_ReservedCodesAreRefused :
    (State.reset.withRequests [.operation [0x01, 9]]).requests = .operation (0x01 :: [9]) :: [] ∧
    (0x01 : Code).toNat ∉ [0x00, 0x10, 0x11, 0x12, 0x13, 0x14, 0x15, 0x16, 0x20, 0x21, 0x22, 0x23, 0x24, 0x25, 0x26,
      0x30, 0x31, 0x32, 0x33, 0x40, 0x41, 0x50, 0x51] := by decide

/-- Every family, with rational operands beyond 64 bits and a run length at its bound. -/
theorem witness_DecodeInvertsEncode :
    (Instr.profileSel 720).wellFormed = true ∧ (Instr.pack 1023 0 512).wellFormed = true ∧
    (Instr.invRgb (2 ^ 70) (-2 ^ 70) (mkRat 1 (2 ^ 70))).wellFormed = true ∧ Instr.rleFlush.wellFormed = true ∧
    (Instr.rldInit 8).wellFormed = true ∧ (Instr.encode 8 1 32 32).wellFormed = true ∧
    (Instr.run 1 0xFEFEFEFEFEFEFEFE).wellFormed = true ∧ (Instr.pixel ⟨0, 0, 0, 0⟩).wellFormed = true := by
  decide +kernel

theorem witness_ForwardChannelsAreTheIntegerForms :
    (profiled .bt601).config.arith = .exactRational ∧ (profiled .bt709).config.arith = .exactRational ∧
    (profiled .bt601).std = .bt601 ∧ (profiled .bt709).std = .bt709 := by decide

/-- Two second pixels of different colour with equal luma and equal alpha. -/
theorem witness_PairTakesChromaFromItsFirstPixel :
    exec (.fwdY 0 0 1) (profiled .bt601) = exec (.fwdY 0 0 0) (profiled .bt601) ∧
    (⟨0, 0, 1, 9⟩ : Pixel).a = (⟨0, 0, 0, 9⟩ : Pixel).a := by
  have h : fwdY .exactRational .bt601 0 0 1 = fwdY .exactRational .bt601 0 0 0 := by decide +kernel
  exact ⟨congrArg (fun v => Host.Outcome.next ((profiled .bt601).withResult (.field10 v))) h, rfl⟩

theorem witness_BlackPairIsTheWorkedExample :
    (profiled .bt601).config.arith = .exactRational ∧ (profiled .bt601).std = .bt601 := by decide

theorem witness_ConverterNeverMakesTheMarker : State.reset.config.arith = .exactRational := by decide

theorem witness_DescaledValuesAreExact : State.reset.config.arith = .exactRational := by decide

theorem witness_AlphaRoundTripIsExact : State.reset.config.arith = .exactRational := by decide

theorem witness_UnpackShiftsAndMasks :
    exec (.pack 940 436 324) State.reset = .next (State.reset.withResult (.word32 0x3AC6D144)) := by
  have h : packWord 940 436 324 = 0x3AC6D144 := by decide
  exact congrArg (fun w => Host.Outcome.next (State.reset.withResult (.word32 w))) h

theorem witness_InvRgbRoundsTheClampedValues :
    ((profiled .bt601).config.arith = .exactRational ∧ (profiled .bt601).std = .bt601) ∧
    ((profiled .bt709).config.arith = .exactRational ∧ (profiled .bt709).std = .bt709) ∧
    State.reset.config.roundTie = .halfUp := by decide

theorem witness_InvPairIsTheIntegerForms :
    ((profiled .bt601).config.arith = .exactRational ∧ (profiled .bt601).config.roundTie = .halfUp ∧
      (profiled .bt601).std = .bt601) ∧
    ((profiled .bt709).config.arith = .exactRational ∧ (profiled .bt709).config.roundTie = .halfUp ∧
      (profiled .bt709).std = .bt709) := by decide

theorem witness_ColourRoundTripLosesAtMostOne :
    (profiled .bt709).config.arith = .exactRational ∧ (profiled .bt709).std = .bt709 ∧
    ∃ p1 p2 : Pixel, p1 ≠ p2 ∧ p2.r = p1.r ∧ p2.g = p1.g ∧ p2.b = p1.b :=
  ⟨rfl, rfl, ⟨9, 8, 7, 0⟩, ⟨9, 8, 7, 255⟩, by decide, rfl, rfl, rfl⟩

/-- No pending run with the cursor behind COMP's end; runs of 1, 3 and 4 that just fit. -/
theorem witness_FlushWritesThePendingRun :
    ((encoderAt wordA 0 8 0).comp.mem.wf = true ∧ ¬ (encoderAt wordA 0 8 0).encMc ≠ 0) ∧
    ((encoderAt wordA 1 0 8).comp.mem.wf = true ∧ (encoderAt wordA 1 0 8).encMc ≠ 0 ∧
      (encoderAt wordA 1 0 8).encWc.toNat + 8 ≤ (encoderAt wordA 1 0 8).comp.len.toNat) ∧
    ((encoderAt wordA 3 8 32).comp.mem.wf = true ∧
      (encoderAt wordA 3 8 32).encWc.toNat + 24 ≤ (encoderAt wordA 3 8 32).comp.len.toNat) ∧
    ((encoderAt wordA 4 8 32).comp.mem.wf = true ∧
      (encoderAt wordA 4 8 32).encWc.toNat + 24 ≤ (encoderAt wordA 4 8 32).comp.len.toNat) := by decide +kernel

theorem witness_PushCountsOrFlushes :
    ((encoderAt wordA 0 0 0).encFinished = false ∧ (encoderAt wordA 0 0 0).encMc = 0) ∧
    ((encoderAt wordA 3 0 0).encFinished = false ∧ (encoderAt wordA 3 0 0).encMc ≠ 0 ∧
      wordA = (encoderAt wordA 3 0 0).encLw ∧ (encoderAt wordA 3 0 0).encMc.toNat ≠ 2 ^ 64 - 1) ∧
    ((encoderAt wordA 4 8 32).encFinished = false ∧ (encoderAt wordA 4 8 32).encMc ≠ 0 ∧
      wordB ≠ (encoderAt wordA 4 8 32).encLw ∧ (encoderAt wordA 4 8 32).comp.mem.wf = true ∧
      (encoderAt wordA 4 8 32).encWc.toNat + (be64Bytes 0xFEFEFEFEFEFEFEFE ++ be64Bytes 4 ++ be64Bytes wordA).length ≤
        (encoderAt wordA 4 8 32).comp.len.toNat) := by decide +kernel

theorem witness_RepeatAtTheTopOfTheCountWraps :
    (encoderAt wordA 0xFFFFFFFFFFFFFFFF 0 0).encFinished = false ∧
    (encoderAt wordA 0xFFFFFFFFFFFFFFFF 0 0).encMc.toNat = 2 ^ 64 - 1 ∧
    wordA = (encoderAt wordA 0xFFFFFFFFFFFFFFFF 0 0).encLw := by decide +kernel

theorem witness_FinishFlushesAndAnswersTheLength :
    (encoderAt wordA 2 16 32).comp.mem.wf = true ∧ (encoderAt wordA 2 16 32).encMc ≠ 0 ∧
    (encoderAt wordA 2 16 32).encWc.toNat + (List.replicate 2 (be64Bytes wordA)).flatten.length ≤
      (encoderAt wordA 2 16 32).comp.len.toNat := by decide +kernel

/-- An ended stream; the four kinds of instruction that the second clause tells apart each have a next state. -/
theorem witness_PushAfterFinishIsRefused :
    (State.reset.withEncFinished true).encFinished = true ∧
    (∃ t, exec .rleFinish State.reset = .next t) ∧ (∃ t, exec .rleInit State.reset = .next t) ∧
    (∃ t, exec (.encode 8 1 32 32) State.reset = .next t) ∧ ∃ t, exec .rldRead State.reset = .next t :=
  ⟨rfl, exists_next (by decide +kernel), exists_next (by decide +kernel), exists_next (by decide +kernel),
    exists_next (by decide +kernel)⟩

/-- One byte of COMP is missing, for a literal and for a run record. -/
theorem witness_FlushPastTheEndIsRefused :
    ((encoderAt wordA 1 8 15).encMc ≠ 0 ∧ (encoderAt wordA 1 8 15).comp.len.toNat <
      (encoderAt wordA 1 8 15).encWc.toNat + 8 * (encoderAt wordA 1 8 15).encMc.toNat) ∧
    ((encoderAt wordA 4 8 31).encMc ≠ 0 ∧ (encoderAt wordA 4 8 31).comp.len.toNat <
      (encoderAt wordA 4 8 31).encWc.toNat + 24 ∧ (encoderAt wordA 4 8 31).encFinished = false ∧
      wordB ≠ (encoderAt wordA 4 8 31).encLw) := by decide +kernel

/-- COMP has exactly the room of the literal form. -/
theorem witness_EncoderWritesMaximalRuns :
    (encoderAt 0 0 0 40).comp.mem.wf = true ∧
    8 * [wordA, wordA, wordA, wordA, wordB].length ≤ (encoderAt 0 0 0 40).comp.len.toNat := by decide +kernel

theorem witness_EncodedSizeIsAtMostLiteral :
    (encoderAt 0 0 0 24).comp.mem.wf = true ∧
    8 * [wordA, wordB, wordB].length ≤ (encoderAt 0 0 0 24).comp.len.toNat := by decide +kernel

theorem witness_DecoderReturnsWhatWasPushed :
    (encoderAt 0 0 0 40).comp.mem.wf = true ∧
    8 * [wordA, wordA, wordA, wordA, wordB].length ≤ (encoderAt 0 0 0 40).comp.len.toNat ∧
    0xFEFEFEFEFEFEFEFE ∉ [wordA, wordA, wordA, wordA, wordB] := by decide +kernel

/-- The unread bytes and the bytes of COMP behind DEC.RO. -/
def unread (s : State) : Nat := s.decLen.toNat - s.decRo.toNat
def room (s : State) : Nat := s.comp.len.toNat - s.decRo.toNat

/-- 7 bytes left; 8 bytes left, inside a run; 24 bytes left at a header with L = 0 and with L = 1; 23 bytes left at
MARKER; 8 bytes left at a literal. -/
theorem witness_ReadFollowsItsSteps :
    unread (decoderAt ((runBytes 4 wordA).take 7) 0 0) < 8 ∧
    (8 ≤ unread (decoderAt (runBytes 4 wordA) 16 1) ∧ 8 ≤ room (decoderAt (runBytes 4 wordA) 16 1) ∧
      (decoderAt (runBytes 4 wordA) 16 1).decRr ≠ 0) ∧
    (24 ≤ unread (decoderAt (runBytes 0 wordC) 0 0) ∧ 24 ≤ room (decoderAt (runBytes 0 wordC) 0 0) ∧
      (decoderAt (runBytes 0 wordC) 0 0).decRr = 0 ∧
      wordIn (decoderAt (runBytes 0 wordC) 0 0).comp.mem 0 = 0xFEFEFEFEFEFEFEFE ∧
      wordIn (decoderAt (runBytes 0 wordC) 0 0).comp.mem 8 = 0) ∧
    (24 ≤ unread (decoderAt (runBytes 1 wordC) 0 0) ∧
      wordIn (decoderAt (runBytes 1 wordC) 0 0).comp.mem 0 = 0xFEFEFEFEFEFEFEFE ∧
      wordIn (decoderAt (runBytes 1 wordC) 0 0).comp.mem 8 ≠ 0) ∧
    (8 ≤ unread (decoderAt ((runBytes 4 wordA).take 23) 0 0) ∧
      unread (decoderAt ((runBytes 4 wordA).take 23) 0 0) < 24 ∧
      8 ≤ room (decoderAt ((runBytes 4 wordA).take 23) 0 0)) ∧
    (8 ≤ unread (decoderAt (be64Bytes wordB) 0 0) ∧ 8 ≤ room (decoderAt (be64Bytes wordB) 0 0) ∧
      wordIn (decoderAt (be64Bytes wordB) 0 0).comp.mem 0 ≠ 0xFEFEFEFEFEFEFEFE) := by decide +kernel

/-- RLD.INIT was given more than COMP holds: one byte less than a word, and one byte less than a run record, with
L = 0 and with L = 4. -/
theorem witness_ReadPastTheEndIsRefused :
    let short := (decoderAt (be64Bytes wordB) 0 0).withComp { len := 7, mem := [] }
    let cut (l : Count) := (decoderAt ((runBytes l wordB).take 23) 0 0).withDecLen 24
    (8 ≤ unread short ∧ short.comp.len.toNat < short.decRo.toNat + 8) ∧
    (24 ≤ unread (cut 0) ∧ 8 ≤ room (cut 0) ∧ (cut 0).comp.len.toNat < (cut 0).decRo.toNat + 24 ∧ (cut 0).decRr = 0 ∧
      wordIn (cut 0).comp.mem 0 = 0xFEFEFEFEFEFEFEFE ∧ wordIn (cut 0).comp.mem 8 = 0) ∧
    (24 ≤ unread (cut 4) ∧ (cut 4).comp.len.toNat < (cut 4).decRo.toNat + 24 ∧
      wordIn (cut 4).comp.mem 0 = 0xFEFEFEFEFEFEFEFE ∧ wordIn (cut 4).comp.mem 8 ≠ 0) := by decide +kernel

/-- A literal with 8 bytes left; runs of length 2, 1 (24 bytes left, and 40 bytes with no marker as the value), 0. -/
theorem witness_RecordsDeliverTheirLength :
    let two := decoderAt (runBytes 2 wordC) 0 0
    let one := decoderAt (runBytes 1 0xFEFEFEFEFEFEFEFE) 0 0
    let oneMore := decoderAt (runBytes 1 wordC ++ be64Bytes wordA ++ be64Bytes wordB) 0 0
    (8 ≤ unread (decoderAt (be64Bytes wordB) 0 0) ∧ 8 ≤ room (decoderAt (be64Bytes wordB) 0 0)) ∧
    (24 ≤ unread two ∧ 24 ≤ room two ∧ wordIn two.comp.mem 0 = 0xFEFEFEFEFEFEFEFE ∧
      2 ≤ (wordIn two.comp.mem 8).toNat) ∧
    (24 ≤ unread one ∧ 24 ≤ room one ∧ wordIn one.comp.mem 0 = 0xFEFEFEFEFEFEFEFE ∧ wordIn one.comp.mem 8 = 1 ∧
      one.config.run1Deliveries = .twice ∧ unread one < 40) ∧
    (24 ≤ unread oneMore ∧ wordIn oneMore.comp.mem 8 = 1 ∧ 40 ≤ unread oneMore ∧
      wordIn oneMore.comp.mem 16 ≠ 0xFEFEFEFEFEFEFEFE) ∧
    ({ one with config := { arith := .exactRational, roundTie := .halfUp, run1Deliveries := .once } } : State).config.run1Deliveries = .once ∧
    wordIn (decoderAt (runBytes 0 wordC) 0 0).comp.mem 8 = 0 := by decide +kernel

/-- A run record, a literal, and 7 bytes at a record boundary. -/
theorem witness_ReadRunsTheRecordInTheStream :
    ((decoderAt (runBytes 4 wordA) 0 0).decRr = 0 ∧ 24 ≤ room (decoderAt (runBytes 4 wordA) 0 0) ∧
      decodeRecord (readBytes (decoderAt (runBytes 4 wordA) 0 0).comp.mem 0 24) = .ok (.run 4 wordA, [])) ∧
    decodeRecord (readBytes (decoderAt (be64Bytes wordB) 0 0).comp.mem 0 8) = .ok (.lit wordB, []) ∧
    decodeRecord (readBytes (decoderAt ((be64Bytes wordB).take 7) 0 0).comp.mem 0 7) = .error .endOfStream := by
  decide +kernel

theorem witness_RecordsDeliverAtTheBoundary : (1 : Count) ≠ 0 ∧ (0 : Count) = 0 := by decide

/-- V187, V188, V190, V192, V194. -/
theorem witness_BadDescriptorsFailBeforeAnyAccess :
    (12 : Dim).toNat % 8 ≠ 0 ∧
    ((8 : Dim).toNat % 8 = 0 ∧ (31 : Len).toNat ≠ (8 : Dim).toNat * (1 : Dim).toNat * 4) ∧
    (31 : Len).toNat < (8 : Dim).toNat * (1 : Dim).toNat * 4 ∧
    (33 : Len).toNat ≠ (8 : Dim).toNat * (1 : Dim).toNat * 4 ∧
    (∃ t, exec (.encode 12 1 48 48) State.reset = .next t ∧ t.statusErr = 1) ∧
    (∃ t, exec (.encode 8 1 31 32) State.reset = .next t ∧ t.statusErr = 2) ∧
    (∃ t, exec (.decode 12 1 0 48) State.reset = .next t ∧ t.statusErr = 1) ∧
    ∃ t, exec (.decode 8 1 24 33) State.reset = .next t ∧ t.statusErr = 2 :=
  ⟨by decide, by decide, by decide, by decide, ⟨_, rfl, rfl⟩, ⟨_, rfl, rfl⟩, ⟨_, rfl, rfl⟩, ⟨_, rfl, rfl⟩⟩

/-- V173 (a frame of one batch, COMP just large enough) and V204 (no pixels). -/
theorem witness_EncodeWritesTheStreamOfTheFrame :
    (State.reset.comp.mem.wf = true ∧ (8 : Dim).toNat % 8 = 0 ∧
      (32 : Len).toNat = (8 : Dim).toNat * (1 : Dim).toNat * 4 ∧
      (8 : Dim).toNat * (1 : Dim).toNat * 4 ≤ (32 : Len).toNat) ∧
    ((0 : Len).toNat = (8 : Dim).toNat * (0 : Dim).toNat * 4 ∧
      (8 : Dim).toNat * (0 : Dim).toNat * 4 ≤ (100 : Len).toNat) := by decide

theorem witness_EncodeOutputIsBounded :
    State.reset.comp.mem.wf = true ∧ (16 : Dim).toNat % 8 = 0 ∧
    (64 : Len).toNat = (16 : Dim).toNat * (1 : Dim).toNat * 4 ∧
    (16 : Dim).toNat * (1 : Dim).toNat * 4 ≤ (64 : Len).toNat ∧ (16 : Dim).toNat * (1 : Dim).toNat * 4 ≠ 0 := by
  decide

/-- A stream of `RUN 4 A` fills a frame of one batch. -/
theorem witness_DecodeConvertsTheWordsItReads :
    (withStream (runBytes 4 wordA)).rgbaOut.mem.wf = true ∧ (8 : Dim).toNat % 8 = 0 ∧
    (32 : Len).toNat = (8 : Dim).toNat * (1 : Dim).toNat * 4 ∧
    ∃ u, readsFrom ((8 : Dim).toNat * (1 : Dim).toNat * 4 / 8) ((withStream (runBytes 4 wordA)).streamStart 24) =
      some ([wordA, wordA, wordA, wordA].map some, u) := by
  refine ⟨by decide, by decide, by decide, ?_⟩
  have h : (readsFrom 4 ((withStream (runBytes 4 wordA)).streamStart 24)).map (fun r => r.1) =
    some ([wordA, wordA, wordA, wordA].map some) := by decide +kernel
  obtain ⟨⟨vs, u⟩, hu, rfl⟩ := Option.map_eq_some_iff.mp h
  exact ⟨u, hu⟩

/-- The stream of V202's kind: four literals, none the marker, nothing behind them. -/
theorem witness_DecodeOfLiteralsFillsTheFrame :
    let s := withStream (be64Bytes wordA ++ be64Bytes wordB ++ be64Bytes wordC ++ be64Bytes wordA)
    s.rgbaOut.mem.wf = true ∧ (8 : Dim).toNat % 8 = 0 ∧ (32 : Len).toNat = (8 : Dim).toNat * (1 : Dim).toNat * 4 ∧
    (8 : Dim).toNat * (1 : Dim).toNat * 4 ≤ (32 : Len).toNat ∧
    ∀ k, k < (8 : Dim).toNat * (1 : Dim).toNat * 4 / 8 → wordIn s.comp.mem (8 * k) ≠ 0xFEFEFEFEFEFEFEFE := by
  refine ⟨by decide, by decide, by decide, by decide, ?_⟩
  intro k hk
  have h : k < 4 := hk
  match k, h with
  | 0, _ => decide +kernel
  | 1, _ => decide +kernel
  | 2, _ => decide +kernel
  | 3, _ => decide +kernel

/-- Three words where four are needed: the fourth read is the one that fails. -/
theorem witness_DecodeFailsAtTheEndOfTheStream :
    let s := withStream (be64Bytes wordA ++ be64Bytes wordB ++ be64Bytes wordC)
    s.rgbaOut.mem.wf = true ∧ (8 : Dim).toNat % 8 = 0 ∧ (32 : Len).toNat = (8 : Dim).toNat * (1 : Dim).toNat * 4 ∧
    ∃ vs u, readsFrom 4 (s.streamStart 24) = some (vs, u) ∧
      4 ≤ (8 : Dim).toNat * (1 : Dim).toNat * 4 / 8 ∧ none ∈ vs := by
  refine ⟨by decide, by decide, by decide, ?_⟩
  have h : (readsFrom 4 ((withStream (be64Bytes wordA ++ be64Bytes wordB ++ be64Bytes wordC)).streamStart 24)).map
    (fun r => r.1) = some [some wordA, some wordB, some wordC, none] := by decide +kernel
  obtain ⟨⟨vs, u⟩, hu, hv⟩ := Option.map_eq_some_iff.mp h
  subst hv
  exact ⟨_, u, hu, by decide, by simp⟩

theorem witness_FrameRoundTripLosesOnlyInConversion :
    State.reset.comp.mem.wf = true ∧ State.reset.rgbaOut.mem.wf = true ∧ (8 : Dim).toNat % 8 = 0 ∧
    (32 : Len).toNat = (8 : Dim).toNat * (1 : Dim).toNat * 4 ∧
    (8 : Dim).toNat * (1 : Dim).toNat * 4 ≤ (32 : Len).toNat ∧
    ∃ t, exec (.encode 8 1 32 32) State.reset = .next t :=
  ⟨by decide, by decide, by decide, by decide, by decide, exists_next (by decide +kernel)⟩

/-- One byte less than the 24 that ENCODE wrote. -/
theorem witness_ShortenedStreamRunsOut :
    State.reset.comp.mem.wf = true ∧ (8 : Dim).toNat % 8 = 0 ∧
    (32 : Len).toNat = (8 : Dim).toNat * (1 : Dim).toNat * 4 ∧
    (8 : Dim).toNat * (1 : Dim).toNat * 4 ≤ (32 : Len).toNat ∧
    ∃ t, exec (.encode 8 1 32 32) State.reset = .next t ∧ (23 : Len).toNat < t.statusOutLen.toNat := by
  refine ⟨by decide, by decide, by decide, by decide, ?_⟩
  have h : (nextOf (exec (.encode 8 1 32 32) State.reset)).map (fun t => t.statusOutLen) = some 24 := by
    decide +kernel
  obtain ⟨t, ht⟩ := exists_next (o := exec (.encode 8 1 32 32) State.reset) (by decide +kernel)
  rw [ht] at h
  have h24 : t.statusOutLen = 24 := Option.some.inj h
  exact ⟨t, ht, by rw [h24]; decide⟩

theorem witness_EmptyFramesSucceed :
    ((0 : Dim).toNat % 8 = 0 ∧ ((0 : Dim) = 0 ∨ (5 : Dim) = 0)) ∧ ((8 : Dim).toNat % 8 = 0 ∧ (0 : Dim) = 0) ∧
    (4 : Len) ≠ 0 := by decide

/-- Two states that differ in every register an earlier call leaves. -/
def afterOther : State :=
  (((State.reset.withStd .bt709).withEncoder wordC 7 99).withDecoder 8 5).withPipeBi 3

theorem witness_EncodeForgetsEarlierCalls :
    State.reset ≠ afterOther ∧ State.reset.rgbaIn.mem = afterOther.rgbaIn.mem ∧
    State.reset.comp.mem = afterOther.comp.mem ∧ State.reset.config.arith = afterOther.config.arith ∧
    ∃ t, exec (.encode 8 1 32 32) State.reset = .next t :=
  ⟨by decide, rfl, rfl, rfl, exists_next (by decide +kernel)⟩

theorem witness_DecodeForgetsEarlierCalls :
    State.reset ≠ afterOther ∧ State.reset.comp.mem = afterOther.comp.mem ∧
    State.reset.rgbaOut.mem = afterOther.rgbaOut.mem ∧ State.reset.config = afterOther.config ∧
    ∃ t, exec (.decode 8 1 32 32) State.reset = .next t :=
  ⟨by decide, rfl, rfl, rfl, exists_next (by decide +kernel)⟩

theorem witness_OnlyCallsWriteCallState :
    (∃ t, exec (.rlePush wordB) (encoderAt wordA 4 0 24) = .next t) ∧
    ∀ w h n c, Instr.rlePush wordB ≠ .encode w h n c ∧ Instr.rlePush wordB ≠ .decode w h n c :=
  ⟨exists_next (by decide +kernel), fun _ _ _ _ => ⟨nofun, nofun⟩⟩

/-- Each register of the statement does change in some step. -/
theorem witness_RegistersHaveOnlyTheirWriters :
    (∃ t, exec (.profileSel 720) State.reset = .next t ∧ t.std ≠ State.reset.std) ∧
    (∃ t, exec (.rlePush wordB) State.reset = .next t ∧ t.encLw ≠ State.reset.encLw ∧
      t.encMc ≠ State.reset.encMc) ∧
    (nextOf (exec .rleFlush (encoderAt wordA 1 0 8))).map (fun t => t.encWc) = some 8 ∧
    (nextOf (exec .rldRead (decoderAt (runBytes 4 wordA) 0 0))).map (fun t => (t.decRo, t.decRr)) = some (16, 3) ∧
    ∃ t, exec (.rldInit 8) State.reset = .next t ∧ t.decLen ≠ State.reset.decLen :=
  ⟨⟨_, rfl, by decide⟩, ⟨_, rfl, by decide, by decide⟩, by decide +kernel, by decide +kernel, ⟨_, rfl, by decide⟩⟩

theorem witness_OperationsWithoutAResultAnswerNone :
    (∃ t, exec (.profileSel 720) State.reset = .next t) ∧ (∃ t, exec .rleInit State.reset = .next t) ∧
    (∃ t, exec (.rlePush wordB) (encoderAt wordA 4 0 24) = .next t) ∧
    (∃ t, exec .rleFlush (encoderAt wordA 1 0 8) = .next t) ∧ (∃ t, exec (.rldInit 8) State.reset = .next t) ∧
    (∃ t, exec (.encode 8 1 32 32) State.reset = .next t) ∧
    ∃ t, exec (.decode 8 1 24 32) (withStream (runBytes 4 wordA)) = .next t :=
  ⟨⟨_, rfl⟩, ⟨_, rfl⟩, exists_next (by decide +kernel), exists_next (by decide +kernel), ⟨_, rfl⟩,
    exists_next (by decide +kernel), exists_next (by decide +kernel)⟩

end Sys2Proof.Tests
end

/-! ## What the converter instructions do

One equation for each: the instruction has a next state in every state and in every number system, and writes only the
result. -/

namespace Sys2Proof.Machine

/-! ### ForwardConverter (spec/41_forward.md) -/

theorem exec_fwdY (r g b : Byte) (s : State) :
    exec (.fwdY r g b) s = .next (s.withResult (.field10 (fwdY s.config.arith s.std r g b))) := rfl

theorem exec_fwdCb (r g b : Byte) (s : State) :
    exec (.fwdCb r g b) s = .next (s.withResult (.field10 (fwdCb s.config.arith s.std r g b))) := rfl

theorem exec_fwdCr (r g b : Byte) (s : State) :
    exec (.fwdCr r g b) s = .next (s.withResult (.field10 (fwdCr s.config.arith s.std r g b))) := rfl

theorem exec_fwdA (a : Byte) (s : State) :
    exec (.fwdA a) s = .next (s.withResult (.field10 (fwdA s.config.arith s.std a))) := rfl

theorem exec_fwdPair (p1 p2 : Pixel) (s : State) :
    exec (.fwdPair p1 p2) s = .next (s.withResult (.word64 (fwdPair s.config.arith s.std p1 p2))) := rfl

theorem exec_fwdBatch (p : Batch) (s : State) :
    exec (.fwdBatch p) s = .next (s.withResult (.words
      (fwdPair s.config.arith s.std p.p0 p.p1) (fwdPair s.config.arith s.std p.p2 p.p3)
      (fwdPair s.config.arith s.std p.p4 p.p5) (fwdPair s.config.arith s.std p.p6 p.p7))) := rfl

/-! ### InverseConverter (spec/42_inverse.md) -/

theorem exec_invY (y : Field10) (s : State) :
    exec (.invY y) s =
      .next (s.withResult (.rational (yFull s.config.arith (coefficients s.config.arith s.std) y))) := rfl

theorem exec_invUv (uv : Field10) (s : State) :
    exec (.invUv uv) s =
      .next (s.withResult (.rational (uvFull s.config.arith (coefficients s.config.arith s.std) uv))) := rfl

theorem exec_invA (a : Field10) (s : State) :
    exec (.invA a) s =
      .next (s.withResult (.rational (aFull s.config.arith (coefficients s.config.arith s.std) a))) := rfl

theorem exec_invRgb (y cb cr : Q) (s : State) :
    exec (.invRgb y cb cr) s = .next (s.withResult (.rgb
      (toChannel s.config.roundTie (rReal s.config.arith (coefficients s.config.arith s.std) y cr))
      (toChannel s.config.roundTie (gReal s.config.arith (coefficients s.config.arith s.std) y cb cr))
      (toChannel s.config.roundTie (bReal s.config.arith (coefficients s.config.arith s.std) y cb)))) := rfl

theorem exec_invPair (w : Word64) (s : State) :
    exec (.invPair w) s =
      .next (s.withResult (.pixels (invFirst s.config s.std w) (invSecond s.config s.std w))) := rfl

theorem exec_invBatch (w0 w1 w2 w3 : Word64) (s : State) :
    exec (.invBatch w0 w1 w2 w3) s = .next (s.withResult (.batch (invBatch s.config s.std w0 w1 w2 w3))) := rfl

/-! ### The converters as one statement -/

/-- Settles O18: no equation of a converter has a premise on ARITH, and each writes only the result. -/
theorem convertersRunInAnyNumberSystem : Obligations.ConvertersRunInAnyNumberSystem := by
  intro s r g b a p1 p2 p v y cb cr w w0 w1 w2 w3
  refine ⟨?fwdY, ?fwdCb, ?fwdCr, ?fwdA, ?fwdPair, ?fwdBatch, ?invY, ?invUv, ?invA, ?invRgb, ?invPair, ?invBatch⟩
  case fwdY => exact ⟨_, exec_fwdY r g b s⟩
  case fwdCb => exact ⟨_, exec_fwdCb r g b s⟩
  case fwdCr => exact ⟨_, exec_fwdCr r g b s⟩
  case fwdA => exact ⟨_, exec_fwdA a s⟩
  case fwdPair => exact ⟨_, exec_fwdPair p1 p2 s⟩
  case fwdBatch => exact ⟨_, _, _, _, exec_fwdBatch p s⟩
  case invY => exact ⟨_, exec_invY v s⟩
  case invUv => exact ⟨_, exec_invUv v s⟩
  case invA => exact ⟨_, exec_invA v s⟩
  case invRgb => exact ⟨_, _, _, exec_invRgb y cb cr s⟩
  case invPair => exact ⟨_, _, exec_invPair w s⟩
  case invBatch => exact ⟨_, exec_invBatch w0 w1 w2 w3 s⟩

end Sys2Proof.Machine

/-! ## Reset and step

The state after reset (R37, R310), and the three things a step can do with the host's requests (R20, log entry 4). -/

namespace Sys2Proof.Machine

/-- Settles O1: each value stands in `State.reset`. -/
theorem resetLeavesTheStatedValues : Obligations.ResetLeavesTheStatedValues :=
  ⟨rfl, rfl, rfl, rfl, rfl, rfl, rfl, rfl⟩

@[simp] theorem Buffer.empty_wf : Memory.wf Buffer.empty.mem = true := rfl

theorem reset_memoriesCanonical : State.reset.memoriesCanonical :=
  ⟨Buffer.empty_wf, Buffer.empty_wf, Buffer.empty_wf⟩

theorem reset_cursorsAligned : State.reset.cursorsAligned := ⟨rfl, rfl⟩

/-- No run is entered after reset, so nothing is asked of the bytes behind DEC.RO. -/
theorem reset_decoderInStream : State.reset.decoderInStream :=
  ⟨Nat.le_refl _, fun hrun => absurd rfl hrun⟩

/-- Settles O2, one lemma for each part of the invariant. -/
theorem resetIsSound : Obligations.ResetIsSound :=
  ⟨reset_memoriesCanonical, reset_cursorsAligned, reset_decoderInStream⟩

/-- An idle block does nothing (R310). -/
theorem step_idle {s : State} (hs : s.requests = []) : step s = .next s := by
  simp only [step, hs]

/-- A request that is an instruction is taken off the list and run. -/
theorem step_of_decode_ok {s : State} {r : Request} {rest : List Request} {i : Instr}
    (hs : s.requests = r :: rest) (hr : decode (.request r) = .ok i) : step s = exec i (s.withRequests rest) := by
  have hd : decodeRequest r = .ok i := hr
  simp only [step, hs, hd]

/-- A request that is no instruction is refused with the decoder's reason (R93; spec/93 U11). -/
theorem step_of_decode_error {s : State} {r : Request} {rest : List Request} {e : DecodeError}
    (hs : s.requests = r :: rest) (hr : decode (.request r) = .error e) : step s = .refused (.undecodable e) := by
  have hd : decodeRequest r = .error e := hr
  simp only [step, hs, hd]

/-- Settles O4: the three cases of `step`. -/
theorem stepRunsTheDecodedInstruction : Obligations.StepRunsTheDecodedInstruction :=
  ⟨fun _ _ _ _ => step_of_decode_ok, fun _ _ _ _ => step_of_decode_error, fun _ => step_idle⟩

/-! ## What RLE.PUSH does with a repeat -/

/-- While the stream has not been ended, a repeat of ENC.LW is counted and nothing is written (R191). -/
theorem exec_rlePush_repeat {s : State} (hf : s.encFinished = false) (hmc : s.encMc ≠ 0) :
    exec (.rlePush s.encLw) s = .next ((s.withEncoder s.encLw (s.encMc + 1) s.encWc).withResult .noResult) := by
  have hpush : rlePush s.encLw s = .ok (s.withEncoder s.encLw (s.encMc + 1) s.encWc) := by
    rw [rlePush_eq, if_neg hmc, if_pos rfl]
  show execRlePush s.encLw s = _
  simp [execRlePush, hf, hpush]

/-- Settles O30: the largest count is all ones, and one more is 0. -/
theorem repeatAtTheTopOfTheCountWraps : Obligations.RepeatAtTheTopOfTheCountWraps := by
  rintro s word hf htop rfl
  have hmc : s.encMc = BitVec.allOnes 64 := BitVec.eq_of_toNat_eq htop
  have hwrap : s.encMc + 1 = 0 := by rw [hmc]; rfl
  have hne : s.encMc ≠ 0 := by rw [hmc]; decide
  have hexec := exec_rlePush_repeat hf hne
  rw [hwrap] at hexec
  exact ⟨_, hexec⟩

end Sys2Proof.Machine

/-! ## What each instruction can write

`Writes s i t`: `t` differs from `s` only where instruction `i` may write. `exec_writes` ties it to `exec`; that a
register has no other writer is then read off the constructors. -/

namespace Sys2Proof.Machine

/-- The instructions that answer a value and touch no register or buffer: the converters other than PROFILE.SEL, PACK,
UNPACK and the data formats. -/
def onlyAnswers : Instr → Bool
  | .fwdY .. | .fwdCb .. | .fwdCr .. | .fwdA .. | .pack .. | .fwdPair .. | .fwdBatch .. => true
  | .unpack .. | .invY .. | .invUv .. | .invA .. | .invRgb .. | .invPair .. | .invBatch .. => true
  | .packedWord32 .. | .word64 .. | .pixel .. => true
  | _ => false

/-- The states an instruction can leave behind; a constructor's arguments are the values it is free to write. -/
inductive Writes (s : State) : Instr → State → Prop
  | answer {i : Instr} (hi : onlyAnswers i = true) (r : Result) : Writes s i (s.withResult r)
  | profileSel (h : Dim) : Writes s (.profileSel h) ((s.withStd (standardOf h)).withResult .noResult)
  | rleInit : Writes s .rleInit (((s.withEncoder s.encLw 0 0).withEncFinished false).withResult .noResult)
  | rlePush (w : Word64) (m : Memory) (lw : Word64) (mc : Count) (wc : Len) :
      Writes s (.rlePush w) (((s.withComp (s.comp.withMem m)).withEncoder lw mc wc).withResult .noResult)
  | rleFlush (m : Memory) (wc : Len) :
      Writes s .rleFlush (((s.withComp (s.comp.withMem m)).withEncoder s.encLw s.encMc wc).withResult .noResult)
  | rleFinish (m : Memory) (wc : Len) :
      Writes s .rleFinish ((((s.withComp (s.comp.withMem m)).withEncoder s.encLw 0 wc).withEncFinished true).withResult
        (.byteCount wc))
  | rldInit (n : Len) : Writes s (.rldInit n) (((s.withDecLen n).withDecoder 0 0).withResult .noResult)
  | rldRead (ro : Len) (rr : Count) (v : Option Word64) :
      Writes s .rldRead ((s.withDecoder ro rr).withResult (.sample v))
  | lit (v : Word64) : Writes s (.lit v) ((s.withDecoder (s.decRo + 8) s.decRr).withResult (.sample (some v)))
  | run (n : Count) (v : Word64) (ro : Len) (rr : Count) :
      Writes s (.run n v) ((s.withDecoder ro rr).withResult (.sample (some v)))
  | encodeFailed (w h : Dim) (n c : Len) (e : Failure) :
      Writes s (.encode w h n c) ((s.startCall 0x50 w h n c).raise e)
  | encode (w h : Dim) (n c : Len) (m : Memory) (lw : Word64) (wc bi : Len) :
      Writes s (.encode w h n c)
        ((((((((s.startCall 0x50 w h n c).withRgbaIn (s.rgbaIn.withLen n)).withComp
          ((s.comp.withLen c).withMem m)).withStd (standardOf h)).withEncoder lw 0 wc).withPipeBi bi).withEncFinished
          true).withStatus 0 wc)
  | decodeFailed (w h : Dim) (n c : Len) (e : Failure) :
      Writes s (.decode w h n c) ((s.startCall 0x51 w h n c).raise e)
  | decode (w h : Dim) (n c : Len) (m : Memory) (ro : Len) (rr : Count) (bi : Len) (err : BitVec 2) (outLen : Len) :
      Writes s (.decode w h n c)
        ((((((((s.startCall 0x51 w h n c).withComp (s.comp.withLen n)).withRgbaOut
          ((s.rgbaOut.withLen c).withMem m)).withStd (standardOf h)).withDecLen n).withDecoder ro rr).withPipeBi
          bi).withStatus err outLen)

/-! ### Each instruction writes what `Writes` says -/

/-- An operation followed by its answer: where there is a next state, the operation succeeded. -/
theorem outcomeOf_bind_next {α : Type} {x : Except Refusal α} {f : α → State} {t : State} :
    outcomeOf (x >>= fun a => pure (f a)) = .next t ↔ ∃ a, x = .ok a ∧ f a = t := by
  rw [outcomeOf_next, bind_ok]
  simp only [pure_eq_ok, Except.ok.injEq]

theorem exec_onlyAnswers {i : Instr} (hi : onlyAnswers i = true) (s : State) :
    ∃ r, exec i s = .next (s.withResult r) := by
  cases i with
  | fwdY | fwdCb | fwdCr | fwdA | pack | fwdPair | fwdBatch => exact ⟨_, rfl⟩
  | unpack | invY | invUv | invA | invRgb | invPair | invBatch => exact ⟨_, rfl⟩
  | packedWord32 | word64 | pixel => exact ⟨_, rfl⟩
  | profileSel | rleInit | rlePush | rleFlush | rleFinish | rldInit | rldRead => nomatch hi
  | encode | decode | lit | run => nomatch hi

section
variable {s t : State}

theorem writes_of_onlyAnswers {i : Instr} (hi : onlyAnswers i = true) (he : exec i s = .next t) : Writes s i t := by
  obtain ⟨r, hr⟩ := exec_onlyAnswers hi s
  obtain rfl : s.withResult r = t := Host.Outcome.next.inj (hr.symm.trans he)
  exact .answer hi r

theorem writes_of_rlePush {w : Word64} (he : exec (.rlePush w) s = .next t) : Writes s (.rlePush w) t := by
  change execRlePush w s = .next t at he
  unfold execRlePush at he
  split at he
  · nomatch he
  · obtain ⟨a, ha, rfl⟩ := outcomeOf_bind_next.mp he
    rw [(rlePush_frame ha).1]
    exact .rlePush w _ _ _ _

theorem writes_of_rleFlush (he : exec .rleFlush s = .next t) : Writes s .rleFlush t := by
  obtain ⟨a, ha, rfl⟩ := outcomeOf_bind_next.mp he
  rw [(rleFlush_frame ha).1]
  exact .rleFlush _ _

theorem writes_of_rleFinish (he : exec .rleFinish s = .next t) : Writes s .rleFinish t := by
  obtain ⟨a, ha, rfl⟩ := outcomeOf_bind_next.mp he
  rw [(rleFinish_frame ha).1]
  exact .rleFinish _ _

theorem writes_of_rldRead (he : exec .rldRead s = .next t) : Writes s .rldRead t := by
  obtain ⟨⟨v, a⟩, ha, rfl⟩ := outcomeOf_bind_next.mp he
  unfold delivered
  rw [rldRead_frame ha]
  exact .rldRead _ _ v

/-- The first delivery of a run moves the decoder at most. -/
theorem deliverRunHead_delivered (n : Count) (v : Word64) (s : State) :
    ∃ ro, delivered (deliverRunHead n v s) = (s.withDecoder ro s.decRr).withResult (.sample (some v)) := by
  unfold deliverRunHead
  split
  · exact ⟨s.decRo + 8, rfl⟩
  · exact ⟨s.decRo, rfl⟩

theorem writes_of_run {n : Count} {v : Word64} (he : exec (.run n v) s = .next t) : Writes s (.run n v) t := by
  obtain ⟨a, ha, rfl⟩ := outcomeOf_bind_next.mp he
  obtain ⟨_, rfl⟩ := enterRun_ok.mp ha
  obtain ⟨ro, hro⟩ := deliverRunHead_delivered n v (s.withDecoder (s.decRo + 16) (n - 1))
  rw [hro]
  exact .run n v ro (n - 1)

/-- A failed check leaves the descriptor and STATUS; a call that runs leaves what its loop moved. -/
theorem writes_of_encode {w h : Dim} {n c : Len} (he : exec (.encode w h n c) s = .next t) :
    Writes s (.encode w h n c) t := by
  change execEncode w h n c s = .next t at he
  unfold execEncode at he
  split at he
  next e _ =>
    obtain rfl := Host.Outcome.next.inj he
    exact .encodeFailed w h n c e
  next =>
    rw [(encodeFrame_frame (outcomeOf_next.mp he)).1]
    exact .encode w h n c _ _ _ _

/-- The two cases are those of ENCODE; DECODE's loop may also end in a failure, with its batches already written. -/
theorem writes_of_decode {w h : Dim} {n c : Len} (he : exec (.decode w h n c) s = .next t) :
    Writes s (.decode w h n c) t := by
  change execDecode w h n c s = .next t at he
  unfold execDecode at he
  split at he
  next e _ =>
    obtain rfl := Host.Outcome.next.inj he
    exact .decodeFailed w h n c e
  next =>
    obtain ⟨hframe, _, _⟩ := decodeFrame_frame (outcomeOf_next.mp he) (fun _ => True)
      (fun _ _ _ _ _ => trivial) (fun _ _ _ _ => trivial) (fun _ _ _ _ => trivial) trivial
    rw [hframe]
    exact .decode w h n c _ _ _ _ _ _

/-- The one inversion lemma of `exec`: whatever the instruction, a next state differs from the state before only where
`Writes` says. -/
theorem exec_writes {i : Instr} (he : exec i s = .next t) : Writes s i t := by
  cases i with
  | profileSel h =>
    obtain rfl := Host.Outcome.next.inj he
    exact .profileSel h
  | rleInit =>
    obtain rfl := Host.Outcome.next.inj he
    exact .rleInit
  | rldInit n =>
    obtain rfl := Host.Outcome.next.inj he
    exact .rldInit n
  | lit v =>
    obtain rfl := Host.Outcome.next.inj he
    exact .lit v
  | rlePush => exact writes_of_rlePush he
  | rleFlush => exact writes_of_rleFlush he
  | rleFinish => exact writes_of_rleFinish he
  | rldRead => exact writes_of_rldRead he
  | run => exact writes_of_run he
  | encode => exact writes_of_encode he
  | decode => exact writes_of_decode he
  | fwdY | fwdCb | fwdCr | fwdA | pack | fwdPair | fwdBatch => exact writes_of_onlyAnswers rfl he
  | unpack | invY | invUv | invA | invRgb | invPair | invBatch => exact writes_of_onlyAnswers rfl he
  | packedWord32 | word64 | pixel => exact writes_of_onlyAnswers rfl he

/-! ### The writers of each register

One lemma for each register or group of registers: the constructors that write it stand first, all others leave it. -/

/-- PROFILE.STD (R24). -/
theorem writers_of_std {i : Instr} (hw : Writes s i t) (hne : t.std ≠ s.std) :
    (∃ h, i = .profileSel h) ∨ (∃ w h n c, i = .encode w h n c) ∨ (∃ w h n c, i = .decode w h n c) := by
  cases hw with
  | profileSel => exact .inl ⟨_, rfl⟩
  | encode => exact .inr (.inl ⟨_, _, _, _, rfl⟩)
  | decode => exact .inr (.inr ⟨_, _, _, _, rfl⟩)
  | answer | rleInit | rlePush | rleFlush | rleFinish | rldInit | rldRead | lit | run | encodeFailed | decodeFailed =>
    exact absurd rfl hne

/-- ENC.LW (R25; RLE.INIT keeps it: log entry 18). -/
theorem writers_of_encLw {i : Instr} (hw : Writes s i t) (hne : t.encLw ≠ s.encLw) :
    (∃ w, i = .rlePush w) ∨ (∃ w h n c, i = .encode w h n c) := by
  cases hw with
  | rlePush => exact .inl ⟨_, rfl⟩
  | encode => exact .inr ⟨_, _, _, _, rfl⟩
  | answer | profileSel | rleInit | rleFlush | rleFinish | rldInit | rldRead | lit | run | decode
  | encodeFailed | decodeFailed =>
    exact absurd rfl hne

/-- ENC.MC (R26). -/
theorem writers_of_encMc {i : Instr} (hw : Writes s i t) (hne : t.encMc ≠ s.encMc) :
    i = .rleInit ∨ (∃ w, i = .rlePush w) ∨ i = .rleFinish ∨ (∃ w h n c, i = .encode w h n c) := by
  cases hw with
  | rleInit => exact .inl rfl
  | rlePush => exact .inr (.inl ⟨_, rfl⟩)
  | rleFinish => exact .inr (.inr (.inl rfl))
  | encode => exact .inr (.inr (.inr ⟨_, _, _, _, rfl⟩))
  | answer | profileSel | rleFlush | rldInit | rldRead | lit | run | decode
  | encodeFailed | decodeFailed =>
    exact absurd rfl hne

/-- ENC.WC and the contents of COMP (R27, R50). -/
theorem writers_of_encWc_comp {i : Instr} (hw : Writes s i t) (hne : t.encWc ≠ s.encWc ∨ t.comp.mem ≠ s.comp.mem) :
    i = .rleInit ∨ (∃ w, i = .rlePush w) ∨ i = .rleFlush ∨ i = .rleFinish ∨ (∃ w h n c, i = .encode w h n c) := by
  cases hw with
  | rleInit => exact .inl rfl
  | rlePush => exact .inr (.inl ⟨_, rfl⟩)
  | rleFlush => exact .inr (.inr (.inl rfl))
  | rleFinish => exact .inr (.inr (.inr (.inl rfl)))
  | encode => exact .inr (.inr (.inr (.inr ⟨_, _, _, _, rfl⟩)))
  | answer | profileSel | rldInit | rldRead | lit | run | decode
  | encodeFailed | decodeFailed =>
    exact hne.elim (absurd rfl) (absurd rfl)

/-- DEC.RO and DEC.RR (R28, R29; the two records write them too: log entry 10). -/
theorem writers_of_decRo_decRr {i : Instr} (hw : Writes s i t) (hne : t.decRo ≠ s.decRo ∨ t.decRr ≠ s.decRr) :
    (∃ n, i = .rldInit n) ∨ i = .rldRead ∨ (∃ v, i = .lit v) ∨ (∃ n v, i = .run n v) ∨
      (∃ w h n c, i = .decode w h n c) := by
  cases hw with
  | rldInit => exact .inl ⟨_, rfl⟩
  | rldRead => exact .inr (.inl rfl)
  | lit => exact .inr (.inr (.inl ⟨_, rfl⟩))
  | run => exact .inr (.inr (.inr (.inl ⟨_, _, rfl⟩)))
  | decode => exact .inr (.inr (.inr (.inr ⟨_, _, _, _, rfl⟩)))
  | answer | profileSel | rleInit | rlePush | rleFlush | rleFinish | encode
  | encodeFailed | decodeFailed =>
    exact hne.elim (absurd rfl) (absurd rfl)

/-- DEC.LEN (R30). -/
theorem writers_of_decLen {i : Instr} (hw : Writes s i t) (hne : t.decLen ≠ s.decLen) :
    (∃ n, i = .rldInit n) ∨ (∃ w h n c, i = .decode w h n c) := by
  cases hw with
  | rldInit => exact .inl ⟨_, rfl⟩
  | decode => exact .inr ⟨_, _, _, _, rfl⟩
  | answer | profileSel | rleInit | rlePush | rleFlush | rleFinish | rldRead | lit | run | encode
  | encodeFailed | decodeFailed =>
    exact absurd rfl hne

/-- What the host owns: the contents of RGBA_IN, its requests, the open parameters (R50; log entries 2, 4). -/
theorem writes_keeps_host_inputs {i : Instr} (hw : Writes s i t) :
    t.rgbaIn.mem = s.rgbaIn.mem ∧ t.requests = s.requests ∧ t.config = s.config := by
  cases hw <;> exact ⟨rfl, rfl, rfl⟩

end

/-- Settles O56, register by register. -/
theorem registersHaveOnlyTheirWriters : Obligations.RegistersHaveOnlyTheirWriters := by
  intro i s t he
  have hw := exec_writes he
  exact ⟨writers_of_std hw, writers_of_encLw hw, writers_of_encMc hw, writers_of_encWc_comp hw,
    writers_of_decRo_decRr hw, writers_of_decLen hw⟩

/-- Settles O54: of all the instructions only the two calls write anything that the statement names. -/
theorem onlyCallsWriteCallState : Obligations.OnlyCallsWriteCallState := by
  intro i s t he
  have hw := exec_writes he
  obtain ⟨hmem, hreq, hconfig⟩ := writes_keeps_host_inputs hw
  refine ⟨hmem, hreq, hconfig, fun hcall => ?_⟩
  cases hw with
  | encode w h n c | encodeFailed w h n c => exact absurd rfl (hcall w h n c).1
  | decode w h n c | decodeFailed w h n c => exact absurd rfl (hcall w h n c).2
  | answer | profileSel | rleInit | rlePush | rleFlush | rleFinish | rldInit | rldRead | lit | run =>
    exact ⟨rfl, rfl, rfl, rfl, rfl, rfl, rfl, rfl, rfl, rfl, rfl⟩

end Sys2Proof.Machine

/-! ## Data formats

The rows of the table that are data answer the value they stand for (R80, R81, R83; log entry 8). -/

namespace Sys2Proof.Machine

theorem exec_packedWord32 (a c y : Field10) (s : State) :
    exec (.packedWord32 a c y) s = .next (s.withResult (.fields a c y)) := rfl

theorem exec_word64 (w1 w2 : Word32) (s : State) :
    exec (.word64 w1 w2) s = .next (s.withResult (.word64 (w1 ++ w2))) := rfl

theorem exec_pixel (p : Pixel) (s : State) : exec (.pixel p) s = .next (s.withResult (.pixel p)) := rfl

/-- Settles O57: one equation for each of the three data formats. -/
theorem dataFormatsAnswerTheirValue : Obligations.DataFormatsAnswerTheirValue :=
  fun s a c y w1 w2 p => ⟨exec_packedWord32 a c y s, exec_word64 w1 w2 s, exec_pixel p s⟩

end Sys2Proof.Machine

/-! ## Reads outside COMP

RLD.READ asks for each word through `w64`, and the first word that does not lie in COMP ends it (R65, log entry 11). -/

namespace Sys2Proof.Machine

variable {s : State}

/-- A word that does not lie in COMP is refused (R65). -/
theorem w64_outside {off : Nat} (hout : s.comp.len.toNat < off + 8) : w64 s off = .error (.outsideBuffer .comp) := by
  have hread : memRead s .comp off 8 = .error (.outsideBuffer .comp) := if_neg (Nat.not_le.mpr hout)
  rw [w64, hread, error_bind]

/-- A word that lies in COMP is read (R14). -/
theorem w64_inside {off : Nat} (hin : off + 8 ≤ s.comp.len.toNat) : w64 s off = .ok (wordIn s.comp.mem off) :=
  w64_ok.mpr ⟨hin, rfl⟩

/-- Where bytes of the stream remain, RLD.READ needs the word at DEC.RO, inside a run and at a record boundary. -/
theorem rldRead_first_word_refused {r : Refusal} (h8 : 8 ≤ s.remain) (hw : w64 s s.decRo.toNat = .error r) :
    rldRead s = .error r := by
  have hwd : ∀ rr, w64 (s.withDecoder s.decRo rr) s.decRo.toNat = .error r := fun _ => hw
  rw [rldRead, if_neg (Nat.not_lt.mpr h8)]
  split
  · simp only [State.withDecoder_decRo, hwd, error_bind]
  · rw [hw, error_bind]

/-- RLD.READ at a run header: the length, the entry into the run, the value (R225, R226). -/
theorem rldRead_run_header (h24 : 24 ≤ s.remain) (hrr : s.decRr = 0) (hw : w64 s s.decRo.toNat = .ok marker) :
    rldRead s = do
      let l ← w64 s (s.decRo.toNat + 8)
      let t ← enterRun l s
      let v ← w64 t t.decRo.toNat
      return deliverRunHead l v t := by
  have hboundary : s.insideRun = false := by rw [State.insideRun, hrr]; rfl
  rw [rldRead, if_neg (by omega), hboundary, hw, if_neg Bool.false_ne_true, ok_bind, if_pos ⟨h24, rfl⟩]

/-- What RLD.READ on the registers refuses, the operation refuses. -/
theorem exec_rldRead_refused {r : Refusal} (h : rldRead s = .error r) : exec .rldRead s = .refused r := by
  show execRldRead s = _
  rw [execRldRead, h, error_bind, outcomeOf_error]

/-- DEC.RO moves through the stream without a wrap, since DEC.LEN bounds it. -/
theorem toNat_decRo_add {n : Nat} (hn : n ≤ s.remain) : (s.decRo + BitVec.ofNat 64 n).toNat = s.decRo.toNat + n := by
  have hlen : n ≤ s.decLen.toNat - s.decRo.toNat := hn
  have hmax := s.decLen.isLt
  have hro := s.decRo.isLt
  rw [BitVec.toNat_add, BitVec.toNat_ofNat]
  omega

/-- A run header that does not lie in COMP whole: L itself or the value is outside, unless L = 0 ends the read first. -/
theorem rldRead_run_header_outside (h24 : 24 ≤ s.remain) (hrr : s.decRr = 0)
    (hw : w64 s s.decRo.toNat = .ok marker) (hout : s.comp.len.toNat < s.decRo.toNat + 24) :
    rldRead s = .error
      (if s.decRo.toNat + 16 ≤ s.comp.len.toNat ∧ wordIn s.comp.mem (s.decRo.toNat + 8) = 0 then .runLengthZero
        else .outsideBuffer .comp) := by
  rw [rldRead_run_header h24 hrr hw]
  by_cases hl : s.decRo.toNat + 16 ≤ s.comp.len.toNat
  · rw [w64_inside (by omega), ok_bind]
    by_cases h0 : wordIn s.comp.mem (s.decRo.toNat + 8) = 0
    · rw [if_pos ⟨hl, h0⟩, enterRun, if_pos h0, error_bind]
    · have hvalue : w64 (s.withDecoder (s.decRo + 16) (wordIn s.comp.mem (s.decRo.toNat + 8) - 1))
          (s.decRo + 16).toNat = .error (.outsideBuffer .comp) := by
        have hro : (s.decRo + 16).toNat = s.decRo.toNat + 16 := toNat_decRo_add (n := 16) (by omega)
        exact w64_outside (by rw [State.withDecoder_comp, hro]; exact hout)
      rw [if_neg (fun h => h0 h.2), enterRun_ok.mpr ⟨h0, rfl⟩, ok_bind, State.withDecoder_decRo, hvalue, error_bind]
  · rw [if_neg (fun h => hl h.1), w64_outside (by omega), error_bind]

/-- Settles O39: the word at DEC.RO first, then the rest of a run header. -/
theorem readPastTheEndIsRefused : Obligations.ReadPastTheEndIsRefused := by
  intro s
  refine ⟨fun h8 hout => ?word, fun h24 hin hout hrr hmarker => ?header⟩
  case word => exact exec_rldRead_refused (rldRead_first_word_refused h8 (w64_outside hout))
  case header =>
    have hw : w64 s s.decRo.toNat = .ok marker := (w64_inside hin).trans (congrArg _ hmarker)
    rw [exec_rldRead_refused (rldRead_run_header_outside h24 hrr hw hout)]
    split <;> rfl

end Sys2Proof.Machine

/-! ## Every step keeps the state sound

`State.sound` looks at the three buffers' contents, ENC.WC and the decoder's registers. The encoder's operations write
the first two and the decoder's the last, so each of them has its own lemma; `exec_keeps_sound` puts them together. The
two stream records as instructions do not look at the stream (log entry 10) and would not keep it, but no request
decodes to one. -/

namespace Sys2Proof.Machine

/-! ### No request is a stream record -/

/-- The two records of the compressed stream (R87). -/
def isStreamRecord : Instr → Bool
  | .lit .. | .run .. => true
  | _ => false

theorem withOperands_ok {code : Code} {n : Nat} {o : List Byte} {i j : Instr} (h : withOperands code n o i = .ok j) :
    i = j := by
  unfold withOperands at h
  split at h
  · exact Except.ok.inj h
  · nomatch h

theorem withFields_ok {code : Code} {n : Nat} {o : List Byte} {i j : Instr} (h : withFields code n o i = .ok j) :
    i = j := by
  unfold withFields at h
  split at h
  · split at h
    · exact Except.ok.inj h
    · nomatch h
  · nomatch h

theorem decodeRationals_ok {code : Code} {o : List Byte} {i : Instr} (h : decodeRationals code o = .ok i) :
    ∃ y cb cr, i = .invRgb y cb cr := by
  unfold decodeRationals at h
  split at h
  · nomatch h
  · split at h
    · nomatch h
    · split at h
      · exact ⟨_, _, _, (Except.ok.inj h).symm⟩
      · nomatch h

/-- No code of R93 stands for a stream record. -/
theorem decodeOperation_not_record {code : Code} {o : List Byte} {i : Instr} (h : decodeOperation code o = .ok i) :
    isStreamRecord i = false := by
  unfold decodeOperation at h
  split at h
  -- 0x24 takes rationals, the default arm refuses, 0x14 and 0x21 to 0x23 take 10-bit fields
  case h_13 => obtain ⟨y, cb, cr, rfl⟩ := decodeRationals_ok h; rfl
  case h_24 => nomatch h
  case h_6 | h_10 | h_11 | h_12 => obtain rfl := withFields_ok h; rfl
  all_goals obtain rfl := withOperands_ok h; rfl

theorem decodeDatum_not_record {f : DataFormat} {bytes : List Byte} {i : Instr} (h : decodeDatum f bytes = .ok i) :
    isStreamRecord i = false := by
  cases f <;>
  · simp only [decodeDatum] at h
    split at h
    · obtain rfl := Except.ok.inj h; rfl
    · nomatch h

theorem decodeRequest_not_record {r : Request} {i : Instr} (h : decodeRequest r = .ok i) :
    isStreamRecord i = false := by
  match r with
  | .operation [] => nomatch h
  | .operation (_ :: _) => exact decodeOperation_not_record h
  | .datum _ _ => exact decodeDatum_not_record h

/-! ### Register updates that the invariant does not see -/

variable {s t : State}

@[simp] theorem State.withResult_sound {r : Result} : (s.withResult r).sound ↔ s.sound := Iff.rfl
@[simp] theorem State.withStd_sound {x : Standard} : (s.withStd x).sound ↔ s.sound := Iff.rfl
@[simp] theorem State.withEncFinished_sound {b : Bool} : (s.withEncFinished b).sound ↔ s.sound := Iff.rfl
@[simp] theorem State.withRequests_sound {rs : List Request} : (s.withRequests rs).sound ↔ s.sound := Iff.rfl
@[simp] theorem State.startCall_sound {op : Code} {w h : Dim} {n c : Len} :
    (s.startCall op w h n c).sound ↔ s.sound := Iff.rfl
@[simp] theorem State.raise_sound {e : Failure} : (s.raise e).sound ↔ s.sound := Iff.rfl

/-! ### Register updates that the invariant sees -/

/-- What the invariant says of the decoder (R56, R230). -/
def State.decoderSound (s : State) : Prop := s.decRo.toNat % 8 = 0 ∧ s.decoderInStream

theorem State.sound.memories (hs : s.sound) : s.memoriesCanonical := hs.1
theorem State.sound.encWc_aligned (hs : s.sound) : s.encWc.toNat % 8 = 0 := hs.2.1.1
theorem State.sound.decoderSound (hs : s.sound) : s.decoderSound := ⟨hs.2.1.2, hs.2.2⟩

/-- The invariant by its parts: the buffers, the encoder's cursor, the decoder. -/
theorem sound_of_parts (hmem : s.memoriesCanonical) (hwc : s.encWc.toNat % 8 = 0) (hdec : s.decoderSound) : s.sound :=
  ⟨hmem, ⟨hwc, hdec.1⟩, hdec.2⟩

/-- The length of a buffer is free. -/
theorem State.sound.withRgbaIn_withLen (hs : s.sound) (n : Len) : (s.withRgbaIn (s.rgbaIn.withLen n)).sound := hs

theorem State.sound.withComp (hs : s.sound) {b : Buffer} (hb : b.mem.wf = true) : (s.withComp b).sound :=
  have ⟨hin, _, hout⟩ := hs.memories
  sound_of_parts ⟨hin, hb, hout⟩ hs.encWc_aligned hs.decoderSound

theorem State.sound.withRgbaOut (hs : s.sound) {b : Buffer} (hb : b.mem.wf = true) : (s.withRgbaOut b).sound :=
  have ⟨hin, hcomp, _⟩ := hs.memories
  sound_of_parts ⟨hin, hcomp, hb⟩ hs.encWc_aligned hs.decoderSound

theorem State.sound.withEncoder (hs : s.sound) (lw : Word64) (mc : Count) {wc : Len} (hwc : wc.toNat % 8 = 0) :
    (s.withEncoder lw mc wc).sound :=
  sound_of_parts hs.memories hwc hs.decoderSound

/-- What the encoder's operations write: the contents of COMP and the encoder's registers. -/
theorem State.sound.encoderWrites (hs : s.sound) {m : Memory} {lw : Word64} {mc : Count} {wc : Len}
    (hm : s.comp.mem.wf = true → m.wf = true) (hwc : s.encWc.toNat % 8 = 0 → wc.toNat % 8 = 0) :
    ((s.withComp (s.comp.withMem m)).withEncoder lw mc wc).sound :=
  have ⟨_, hcomp, _⟩ := hs.memories
  have hwritten : (s.withComp (s.comp.withMem m)).sound := hs.withComp (hm hcomp)
  hwritten.withEncoder lw mc (hwc hs.encWc_aligned)

/-! ### The decoder -/

/-- DEC.RO moves by `k` words, and as far as the stream has room for the words that must still be there. -/
theorem decoderSound_withDecoder {k : Nat} {ro : Len} {rr : Count} (hs : s.decoderSound)
    (hro : ro = s.decRo + BitVec.ofNat 64 (8 * k)) (hroom : 8 * k ≤ s.remain)
    (hrun : rr ≠ 0 → 8 * k + 8 ≤ s.remain) : (s.withDecoder ro rr).decoderSound := by
  obtain ⟨haligned, hin, _⟩ := hs
  have hnat : ro.toNat = s.decRo.toNat + 8 * k := by rw [hro, toNat_decRo_add hroom]
  have hremain : s.remain = s.decLen.toNat - s.decRo.toNat := rfl
  have hremain' : (s.withDecoder ro rr).remain = s.decLen.toNat - ro.toNat := rfl
  refine ⟨?aligned, ?inStream, fun hrr => ?inRun⟩
  case aligned => show ro.toNat % 8 = 0; omega
  case inStream => show ro.toNat ≤ s.decLen.toNat; omega
  case inRun => have := hrun hrr; omega

/-- A decoder at the start of a stream, whatever its length. -/
theorem decoderSound_of_start (hro : s.decRo = 0) (hrr : s.decRr = 0) : s.decoderSound := by
  refine ⟨by rw [hro]; rfl, ?_, fun hrun => absurd hrr hrun⟩
  rw [hro]
  exact Nat.zero_le _

/-- RLD.READ, case by case: it stands still at the end and inside a run, and moves past what it has read (R225,
R230). -/
theorem rldRead_decoderSound {v : Option Word64} (h : rldRead s = .ok (v, t)) (hs : s.decoderSound) :
    t.decoderSound := by
  rcases rldRead_cases h with ⟨_, _, rfl⟩ | ⟨h8, _, _, _, _, rfl⟩ | ⟨h24, _, _, l, _, _, _, _, _, rfl⟩ |
    ⟨h8, _, _, _, _, _, rfl⟩
  case inl => exact hs
  case inr.inl =>
    split
    next hlast =>
      exact decoderSound_withDecoder (k := 1) hs rfl h8 (fun hrr => absurd (by rw [hlast]; rfl) hrr)
    next => exact decoderSound_withDecoder (k := 0) hs (BitVec.add_zero _).symm (Nat.zero_le _) (fun _ => h8)
  case inr.inr.inl =>
    split
    next honce =>
      exact decoderSound_withDecoder (k := 3) hs (BitVec.add_assoc _ _ _) h24
        (fun hrr => absurd (by rw [honce.1]; rfl) hrr)
    next => exact decoderSound_withDecoder (k := 2) hs rfl (by omega) (fun _ => h24)
  case inr.inr.inr => exact decoderSound_withDecoder (k := 1) hs rfl h8 (fun hrr => absurd rfl hrr)

/-! ### Each instruction -/

theorem profileSel_sound (h : Dim) (hs : s.sound) : (profileSel h s).sound := State.withStd_sound.mpr hs

theorem rleInit_sound (hs : s.sound) : (rleInit s).sound :=
  State.withEncFinished_sound.mpr (hs.withEncoder s.encLw 0 rfl)

theorem rleFlush_sound (h : rleFlush s = .ok t) (hs : s.sound) : t.sound := by
  obtain ⟨ht, hmem, hwc⟩ := rleFlush_frame h
  rw [ht]
  exact hs.encoderWrites hmem hwc

theorem rlePush_sound {word : Word64} (h : rlePush word s = .ok t) (hs : s.sound) : t.sound := by
  obtain ⟨ht, hmem, hwc⟩ := rlePush_frame h
  rw [ht]
  exact hs.encoderWrites hmem hwc

theorem rleFinish_sound (h : rleFinish s = .ok t) (hs : s.sound) : t.sound := by
  obtain ⟨ht, hmem, hwc⟩ := rleFinish_frame h
  rw [ht]
  exact State.withEncFinished_sound.mpr (hs.encoderWrites hmem hwc)

theorem rldInit_sound (n : Len) (hs : s.sound) : (rldInit n s).sound :=
  sound_of_parts hs.memories hs.encWc_aligned (decoderSound_of_start rfl rfl)

theorem rldRead_sound {v : Option Word64} (h : rldRead s = .ok (v, t)) (hs : s.sound) : t.sound := by
  have hdec := rldRead_decoderSound h hs.decoderSound
  rw [rldRead_frame h] at hdec ⊢
  exact sound_of_parts hs.memories hs.encWc_aligned hdec

theorem encodeFrame_sound {w h : Dim} {n c : Len} (he : encodeFrame w h n c s = .ok t) (hs : s.sound) : t.sound := by
  obtain ⟨ht, hmem, hwc⟩ := encodeFrame_frame he
  have ⟨_, hcomp, _⟩ := hs.memories
  have hbuffers : ((s.withRgbaIn (s.rgbaIn.withLen n)).withComp ((s.comp.withLen c).withMem t.comp.mem)).sound :=
    (hs.withRgbaIn_withLen n).withComp (hmem hcomp)
  rw [ht]
  exact hbuffers.withEncoder t.encLw 0 hwc

/-- The loop of DECODE keeps what it needs of the decoder from read to read, on the length it was started with. -/
theorem decodeFrame_sound {w h : Dim} {n c : Len} (hd : decodeFrame w h n c s = .ok t) (hs : s.sound) : t.sound := by
  obtain ⟨ht, hmem, hdec⟩ := decodeFrame_frame hd State.decoderSound (fun _ _ _ => rldRead_decoderSound)
    (fun _ _ _ ha => ha) (fun _ _ _ ha => ha) (decoderSound_of_start rfl rfl)
  have ⟨_, hcomp, hout⟩ := hs.memories
  have hbuffers : ((s.withComp (s.comp.withLen n)).withRgbaOut ((s.rgbaOut.withLen c).withMem t.rgbaOut.mem)).sound :=
    (hs.withComp hcomp).withRgbaOut (hmem hout)
  have hmemories : t.memoriesCanonical := by rw [ht]; exact hbuffers.memories
  have hcursor : t.encWc.toNat % 8 = 0 := by rw [ht]; exact hbuffers.encWc_aligned
  exact sound_of_parts hmemories hcursor hdec

theorem exec_encode_sound {w h : Dim} {n c : Len} (he : exec (.encode w h n c) s = .next t) (hs : s.sound) :
    t.sound := by
  change execEncode w h n c s = .next t at he
  unfold execEncode at he
  split at he
  next =>
    obtain rfl := Host.Outcome.next.inj he
    exact State.raise_sound.mpr (State.startCall_sound.mpr hs)
  next => exact encodeFrame_sound (outcomeOf_next.mp he) (State.startCall_sound.mpr hs)

theorem exec_decode_sound {w h : Dim} {n c : Len} (he : exec (.decode w h n c) s = .next t) (hs : s.sound) :
    t.sound := by
  change execDecode w h n c s = .next t at he
  unfold execDecode at he
  split at he
  next =>
    obtain rfl := Host.Outcome.next.inj he
    exact State.raise_sound.mpr (State.startCall_sound.mpr hs)
  next => exact decodeFrame_sound (outcomeOf_next.mp he) (State.startCall_sound.mpr hs)

theorem exec_rlePush_sound {word : Word64} (he : exec (.rlePush word) s = .next t) (hs : s.sound) : t.sound := by
  change execRlePush word s = .next t at he
  unfold execRlePush at he
  split at he
  · nomatch he
  · obtain ⟨a, ha, rfl⟩ := outcomeOf_bind_next.mp he
    exact State.withResult_sound.mpr (rlePush_sound ha hs)

theorem exec_onlyAnswers_sound {i : Instr} (hi : onlyAnswers i = true) (he : exec i s = .next t) (hs : s.sound) :
    t.sound := by
  obtain ⟨r, hr⟩ := exec_onlyAnswers hi s
  obtain rfl : s.withResult r = t := Host.Outcome.next.inj (hr.symm.trans he)
  exact State.withResult_sound.mpr hs

/-- Every instruction but the two stream records keeps the invariant. -/
theorem exec_keeps_sound {i : Instr} (hi : isStreamRecord i = false) (he : exec i s = .next t) (hs : s.sound) :
    t.sound := by
  cases i with
  | profileSel h => obtain rfl := Host.Outcome.next.inj he; exact State.withResult_sound.mpr (profileSel_sound h hs)
  | rleInit => obtain rfl := Host.Outcome.next.inj he; exact State.withResult_sound.mpr (rleInit_sound hs)
  | rldInit n => obtain rfl := Host.Outcome.next.inj he; exact State.withResult_sound.mpr (rldInit_sound n hs)
  | rlePush => exact exec_rlePush_sound he hs
  | rleFlush =>
    obtain ⟨a, ha, rfl⟩ := outcomeOf_bind_next.mp he
    exact State.withResult_sound.mpr (rleFlush_sound ha hs)
  | rleFinish =>
    obtain ⟨a, ha, rfl⟩ := outcomeOf_bind_next.mp he
    exact State.withResult_sound.mpr (rleFinish_sound ha hs)
  | rldRead =>
    obtain ⟨⟨v, a⟩, ha, rfl⟩ := outcomeOf_bind_next.mp he
    exact State.withResult_sound.mpr (rldRead_sound ha hs)
  | encode => exact exec_encode_sound he hs
  | decode => exact exec_decode_sound he hs
  | lit | run => nomatch hi
  | fwdY | fwdCb | fwdCr | fwdA | pack | fwdPair | fwdBatch => exact exec_onlyAnswers_sound rfl he hs
  | unpack | invY | invUv | invA | invRgb | invPair | invBatch => exact exec_onlyAnswers_sound rfl he hs
  | packedWord32 | word64 | pixel => exact exec_onlyAnswers_sound rfl he hs

/-- Settles O3: an idle step changes nothing, and a request decodes to an instruction that keeps the invariant. -/
theorem stepKeepsTheStateSound : Obligations.StepKeepsTheStateSound := by
  intro s t hs hstep
  match hreq : s.requests with
  | [] =>
    obtain rfl : s = t := Host.Outcome.next.inj ((step_idle hreq).symm.trans hstep)
    exact hs
  | r :: rest =>
    match hdec : decodeRequest r with
    | .error e => nomatch (step_of_decode_error hreq hdec).symm.trans hstep
    | .ok i =>
      have he : exec i (s.withRequests rest) = .next t := (step_of_decode_ok hreq hdec).symm.trans hstep
      exact exec_keeps_sound (decodeRequest_not_record hdec) he (State.withRequests_sound.mpr hs)

end Sys2Proof.Machine

/-! ## Encodings

What the decoder reads from the bytes the encoder writes: 10-bit operands, rationals, records, and from these the
equation `decode_encode` for every instruction (R81, R83, R87, R88, R93, R94; log entries 5, 6). -/

namespace Sys2Proof

open Machine

/-! ### Operands of whole 32-bit and 64-bit words -/

/-- What ENCODE and DECODE read from their operand bytes (R93, R94; log entry 5). -/
theorem callOperands_read (w h : Dim) (n c : Len) (call : Dim → Dim → Len → Len → Instr) :
    let o := be32Bytes w ++ be32Bytes h ++ be64Bytes n ++ be64Bytes c
    call (be32At o 0) (be32At o 4) (be64At o 8) (be64At o 16) = call w h n c := by
  intro o
  have hw : be32At o 0 = w := append4_extract w
  have hh : be32At o 4 = h := append4_extract h
  have hn : be64At o 8 = n := be64At_be64Bytes (be32Bytes w ++ be32Bytes h) (be64Bytes c) n
  have hc : be64At o 16 = c := be64At_be64Bytes (be32Bytes w ++ be32Bytes h ++ be64Bytes n) [] c
  rw [hw, hh, hn, hc]

/-- What INV.BATCH reads from its operand bytes (R93, R94). -/
theorem batchWords_read (w0 w1 w2 w3 : Word64) :
    let o := be64Bytes w0 ++ be64Bytes w1 ++ be64Bytes w2 ++ be64Bytes w3
    Instr.invBatch (be64At o 0) (be64At o 8) (be64At o 16) (be64At o 24) = .invBatch w0 w1 w2 w3 := by
  intro o
  have h0 : be64At o 0 = w0 := be64At_be64Bytes [] (be64Bytes w1 ++ be64Bytes w2 ++ be64Bytes w3) w0
  have h1 : be64At o 8 = w1 := be64At_be64Bytes (be64Bytes w0) (be64Bytes w2 ++ be64Bytes w3) w1
  have h2 : be64At o 16 = w2 := be64At_be64Bytes (be64Bytes w0 ++ be64Bytes w1) (be64Bytes w3) w2
  have h3 : be64At o 24 = w3 := be64At_be64Bytes (be64Bytes w0 ++ be64Bytes w1 ++ be64Bytes w2) [] w3
  rw [h0, h1, h2, h3]

/-! ### 10-bit operands -/

/-- The two bytes of a 10-bit operand are its value in 16 bits. -/
theorem be16At_be10Bytes (v : Field10) (ys : List Byte) : be16At (be10Bytes v ++ ys) 0 = v.setWidth 16 := by
  show (v.extractLsb' 8 2).setWidth 8 ++ v.extractLsb' 0 8 = v.setWidth 16
  ext i hi
  simp only [BitVec.getElem_append, BitVec.getElem_setWidth, BitVec.getElem_extractLsb', BitVec.getLsbD_extractLsb']
  split
  · rw [Nat.zero_add]
  · by_cases h2 : i - 8 < 2
    · rw [decide_eq_true h2, Bool.true_and, show 8 + (i - 8) = i by omega]
    · rw [decide_eq_false h2, Bool.false_and, BitVec.getLsbD_of_ge v i (by omega)]

/-- 10-bit operands one behind the other. -/
theorem be16At_fields (fs : List Field10) {k : Nat} (hk : k < fs.length) :
    be16At (fs.flatMap be10Bytes) (2 * k) = fs[k].setWidth 16 := by
  induction fs generalizing k with
  | nil => nomatch hk
  | cons f fs ih =>
    cases k with
    | zero => exact be16At_be10Bytes f _
    | succ k => exact ih (Nat.lt_of_succ_lt_succ hk)

theorem field10At_fields (fs : List Field10) {k : Nat} (hk : k < fs.length) :
    field10At (fs.flatMap be10Bytes) (2 * k) = fs[k] := by
  rw [field10At, be16At_fields fs hk, BitVec.setWidth_setWidth_of_le _ (by decide), BitVec.setWidth_eq]

/-- The upper six bits of an encoded 10-bit operand are 0. -/
theorem fits10At_fields (fs : List Field10) {k : Nat} (hk : k < fs.length) :
    fits10At (fs.flatMap be10Bytes) (2 * k) = true := by
  have htop : (fs[k].setWidth 16).extractLsb' 10 6 = 0 := by
    ext i hi
    simp [BitVec.getLsbD_of_ge]
  rw [fits10At, be16At_fields fs hk, htop]
  rfl

theorem fieldsBytes_length (fs : List Field10) : (fs.flatMap be10Bytes).length = 2 * fs.length := by
  induction fs with
  | nil => rfl
  | cons f fs ih =>
    rw [List.flatMap_cons, List.length_append, ih, be10Bytes_length, List.length_cons]
    omega

/-- Encoded 10-bit operands are accepted (log entry 5). -/
theorem withFields_eq_ok {code : Code} (fs : List Field10) {i j : Instr} (hj : j = i) :
    withFields code fs.length (fs.flatMap be10Bytes) j = .ok i := by
  have hfits : (List.range fs.length).all (fun k => fits10At (fs.flatMap be10Bytes) (2 * k)) = true :=
    List.all_eq_true.mpr fun k hk => fits10At_fields fs (List.mem_range.mp hk)
  rw [withFields, if_pos (fieldsBytes_length fs), if_pos hfits, hj]

/-- An operation whose one operand is a 10-bit value. -/
theorem withFields_one {code : Code} (op : Field10 → Instr) (v : Field10) :
    withFields code 1 (be10Bytes v) (op (field10At (be10Bytes v) 0)) = .ok (op v) :=
  withFields_eq_ok [v] (congrArg op (field10At_fields [v] (k := 0) Nat.zero_lt_one))

/-- What PACK reads from its operand bytes. -/
theorem packFields_read (a c y : Field10) :
    let o := be10Bytes a ++ be10Bytes c ++ be10Bytes y
    Instr.pack (field10At o 0) (field10At o 2) (field10At o 4) = .pack a c y := by
  intro o
  have ha : field10At o 0 = a := field10At_fields [a, c, y] (k := 0) (by simp)
  have hc : field10At o 2 = c := field10At_fields [a, c, y] (k := 1) (by simp)
  have hy : field10At o 4 = y := field10At_fields [a, c, y] (k := 2) (by simp)
  rw [ha, hc, hy]

/-! ### INV.RGB -/

/-- The three rationals of INV.RGB, of any size, read back (log entry 6). -/
theorem decodeRationals_rationalBytes (code : Code) (y cb cr : Q) :
    decodeRationals code (rationalBytes y ++ rationalBytes cb ++ rationalBytes cr) = .ok (.invRgb y cb cr) := by
  have hcr : takeRational (rationalBytes cr) = some (cr, []) := by
    simpa only [List.append_nil] using takeRational_rationalBytes cr []
  simp only [decodeRationals, List.append_assoc, takeRational_rationalBytes, hcr]

/-! ### Stream records -/

/-- Fewer than 8 bytes are no record (R88). -/
theorem decodeRecord_short {bytes : List Byte} (h8 : bytes.length < 8) : decodeRecord bytes = .error .endOfStream := by
  rw [decodeRecord, if_pos h8]

/-- 24 bytes that begin with MARKER are a run record (R87, R88). -/
theorem decodeRecord_run {bytes : List Byte} (h24 : 24 ≤ bytes.length) (hm : be64At bytes 0 = marker) :
    decodeRecord bytes = .ok (.run (be64At bytes 8) (be64At bytes 16), bytes.drop 24) := by
  rw [decodeRecord, if_neg (by omega), if_pos ⟨h24, hm⟩]

/-- All else is a literal, MARKER with fewer than 24 bytes included (R87, R88). -/
theorem decodeRecord_lit {bytes : List Byte} (h8 : 8 ≤ bytes.length)
    (hlit : ¬ (24 ≤ bytes.length ∧ be64At bytes 0 = marker)) :
    decodeRecord bytes = .ok (.lit (be64At bytes 0), bytes.drop 8) := by
  rw [decodeRecord, if_neg (by omega), if_neg hlit]

/-- A record with nothing behind it. -/
theorem decode_record {bytes : List Byte} {i : Instr} (h : decodeRecord bytes = .ok (i, [])) :
    decode (.record bytes) = .ok i := by
  simp only [decode, h]

theorem decode_litBytes (v : Word64) : decode (.record (be64Bytes v)) = .ok (.lit v) := by
  apply decode_record
  have hlit : ¬ (24 ≤ (be64Bytes v).length ∧ be64At (be64Bytes v) 0 = marker) := by
    rw [be64Bytes_length]
    exact fun h => absurd h.1 (by decide)
  rw [decodeRecord_lit (be64Bytes_length v).ge hlit, be64At_be64Bytes_zero]
  rfl

theorem decode_runBytes (n : Count) (v : Word64) :
    decode (.record (be64Bytes marker ++ be64Bytes n ++ be64Bytes v)) = .ok (.run n v) := by
  apply decode_record
  have hlen : 24 ≤ (be64Bytes marker ++ be64Bytes n ++ be64Bytes v).length := Nat.le_refl 24
  have hm : be64At (be64Bytes marker ++ be64Bytes n ++ be64Bytes v) 0 = marker :=
    be64At_be64Bytes [] (be64Bytes n ++ be64Bytes v) marker
  have hn : be64At (be64Bytes marker ++ be64Bytes n ++ be64Bytes v) 8 = n :=
    be64At_be64Bytes (be64Bytes marker) (be64Bytes v) n
  have hv : be64At (be64Bytes marker ++ be64Bytes n ++ be64Bytes v) 16 = v :=
    be64At_be64Bytes (be64Bytes marker ++ be64Bytes n) [] v
  rw [decodeRecord_run hlen hm, hn, hv]
  rfl

/-! ### Data formats -/

theorem decode_packedWord32Bytes (a c y : Field10) :
    decode (.request (.datum .packedWord32 (be32Bytes (packWord a c y)))) = .ok (.packedWord32 a c y) := by
  simp only [decode, decodeRequest, decodeDatum, be32Bytes_length, if_true, be32At_be32Bytes_zero, alpha10_packWord,
    chroma10_packWord, luma10_packWord]

theorem decode_word64Bytes (w1 w2 : Word32) :
    decode (.request (.datum .word64 (be32Bytes w1 ++ be32Bytes w2))) = .ok (.word64 w1 w2) := by
  have h1 : be32At (be32Bytes w1 ++ be32Bytes w2) 0 = w1 := be32At_be32Bytes [] (be32Bytes w2) w1
  have h2 : be32At (be32Bytes w1 ++ be32Bytes w2) 4 = w2 := be32At_be32Bytes (be32Bytes w1) [] w2
  simp only [decode, decodeRequest, decodeDatum, List.length_append, be32Bytes_length, if_true, h1, h2]

/-! ### Every instruction -/

/-- No encoding loses anything, not even that of the reserved run of length 0 (R89). -/
theorem decode_encode (i : Instr) : decode (encode i) = .ok i := by
  cases i with
  -- operands that are whole bytes
  | fwdY | fwdCb | fwdCr | fwdA | fwdPair | fwdBatch | rleInit | rleFlush | rleFinish | rldRead | pixel => rfl
  -- 32-bit and 64-bit operands: their number evaluates to the one the decoder asks for
  | profileSel h => exact congrArg Except.ok (congrArg Instr.profileSel (be32At_be32Bytes_zero h))
  | unpack w => exact congrArg Except.ok (congrArg Instr.unpack (be32At_be32Bytes_zero w))
  | invPair w => exact congrArg Except.ok (congrArg Instr.invPair (be64At_be64Bytes_zero w))
  | rlePush w => exact congrArg Except.ok (congrArg Instr.rlePush (be64At_be64Bytes_zero w))
  | rldInit n => exact congrArg Except.ok (congrArg Instr.rldInit (be64At_be64Bytes_zero n))
  | invBatch w0 w1 w2 w3 => exact congrArg Except.ok (batchWords_read w0 w1 w2 w3)
  | encode w h n c => exact congrArg Except.ok (callOperands_read w h n c .encode)
  | decode w h n c => exact congrArg Except.ok (callOperands_read w h n c .decode)
  -- 10-bit operands
  | pack a c y => exact withFields_eq_ok [a, c, y] (packFields_read a c y)
  | invY y => exact withFields_one .invY y
  | invUv uv => exact withFields_one .invUv uv
  | invA a => exact withFields_one .invA a
  -- rational operands
  | invRgb y cb cr => exact decodeRationals_rationalBytes 0x24 y cb cr
  -- stream records
  | lit v => exact decode_litBytes v
  | run n v => exact decode_runBytes n v
  -- data formats
  | packedWord32 a c y => exact decode_packedWord32Bytes a c y
  | word64 w1 w2 => exact decode_word64Bytes w1 w2

/-- Settles O7: `decode_encode` does not need the instruction to be well formed. -/
theorem decodeInvertsEncode : Obligations.DecodeInvertsEncode := fun i _ => decode_encode i

/-- Bytes that the encoder writes decode to the instruction it wrote them for. -/
theorem decode_of_encode {e : Encoded} {i : Instr} (h : encode i = e) : decode e = .ok i := h ▸ decode_encode i

/-- Settles O6: each of the eight is what the encoder writes for its instruction. -/
theorem wordsWrittenOutDecode : Obligations.WordsWrittenOutDecode :=
  ⟨decode_of_encode (by decide), decode_of_encode (by decide), decode_of_encode (by decide),
    decode_of_encode (by decide), decode_of_encode (by decide), decode_of_encode (by decide),
    decode_of_encode (by decide), decode_of_encode (by decide)⟩

/-! ### Reserved codes -/

/-- The 23 codes of the table of R93. -/
def tableCodes : List Nat :=
  [0x00, 0x10, 0x11, 0x12, 0x13, 0x14, 0x15, 0x16, 0x20, 0x21, 0x22, 0x23, 0x24, 0x25, 0x26,
    0x30, 0x31, 0x32, 0x33, 0x40, 0x41, 0x50, 0x51]

/-- Every arm of the decoder but the last is for a code of the table. -/
theorem decodeOperation_reserved {code : Code} (hcode : code.toNat ∉ tableCodes) (o : List Byte) :
    decodeOperation code o = .error (.reservedCode code) := by
  unfold decodeOperation
  split
  case h_24 => rfl
  all_goals next harm => exact absurd (show code.toNat ∈ tableCodes by rw [harm]; decide) hcode

/-- Settles O5: the decoder refuses the code before it looks at the operands. -/
theorem reservedCodesAreRefused : Obligations.ReservedCodesAreRefused := by
  intro s code operands rest hs hcode
  exact step_of_decode_error hs (decodeOperation_reserved hcode operands)

end Sys2Proof

/-! ## The bits of a Word64

The four bits that the forward converter leaves 0 and the inverse converter does not read (R84, R92), and byte 0 of each
half under the exact rationals (R85). -/

namespace Sys2Proof.Machine

/-! ### Halves -/

theorem extractLsb'_firstWord (w : Word64) {k n : Nat} (h : k + n ≤ 32) :
    (firstWord w).extractLsb' k n = w.extractLsb' (32 + k) n := by
  ext i hi
  have hik : k + i < 32 := by omega
  simp [firstWord, BitVec.getElem_extractLsb', hik, Nat.add_assoc]

theorem extractLsb'_secondWord (w : Word64) {k n : Nat} (h : k + n ≤ 32) :
    (secondWord w).extractLsb' k n = w.extractLsb' k n := by
  ext i hi
  have hik : k + i < 32 := by omega
  simp [secondWord, BitVec.getElem_extractLsb', hik]

/-- The bits of the upper half are those of `word1`. -/
theorem extractLsb'_joinWords_high (a b : Word32) {k n : Nat} (h : k + n ≤ 32) :
    (joinWords a b).extractLsb' (32 + k) n = a.extractLsb' k n := by
  rw [← extractLsb'_firstWord _ h, firstWord_joinWords]

/-- The bits of the lower half are those of `word2`. -/
theorem extractLsb'_joinWords_low (a b : Word32) {k n : Nat} (h : k + n ≤ 32) :
    (joinWords a b).extractLsb' k n = b.extractLsb' k n := by
  rw [← extractLsb'_secondWord _ h, secondWord_joinWords]

/-! ### INV.PAIR does not read the four top bits -/

/-- No field of a PackedWord32 holds one of its bits 31:30 (R81, R84). -/
theorem alpha10_and_mask (w : Word32) : alpha10 (w &&& 0x3FFFFFFF) = alpha10 w := by
  have hmask : (0x3FFFFFFF : Word32).extractLsb' 20 10 = BitVec.allOnes 10 := by decide
  rw [alpha10, BitVec.extractLsb'_and, hmask, BitVec.and_allOnes, alpha10]

theorem chroma10_and_mask (w : Word32) : chroma10 (w &&& 0x3FFFFFFF) = chroma10 w := by
  have hmask : (0x3FFFFFFF : Word32).extractLsb' 10 10 = BitVec.allOnes 10 := by decide
  rw [chroma10, BitVec.extractLsb'_and, hmask, BitVec.and_allOnes, chroma10]

theorem luma10_and_mask (w : Word32) : luma10 (w &&& 0x3FFFFFFF) = luma10 w := by
  have hmask : (0x3FFFFFFF : Word32).extractLsb' 0 10 = BitVec.allOnes 10 := by decide
  rw [luma10, BitVec.extractLsb'_and, hmask, BitVec.and_allOnes, luma10]

/-- The mask of a Word64 is the mask of each of its halves. -/
theorem firstWord_and_mask (w : Word64) : firstWord (w &&& 0x3FFFFFFF3FFFFFFF) = firstWord w &&& 0x3FFFFFFF :=
  BitVec.extractLsb'_and

theorem secondWord_and_mask (w : Word64) : secondWord (w &&& 0x3FFFFFFF3FFFFFFF) = secondWord w &&& 0x3FFFFFFF :=
  BitVec.extractLsb'_and

theorem invFirst_and_mask (k : Config) (std : Standard) (w : Word64) :
    invFirst k std (w &&& 0x3FFFFFFF3FFFFFFF) = invFirst k std w := by
  simp only [invFirst, firstWord_and_mask, secondWord_and_mask, alpha10_and_mask, chroma10_and_mask, luma10_and_mask]

theorem invSecond_and_mask (k : Config) (std : Standard) (w : Word64) :
    invSecond k std (w &&& 0x3FFFFFFF3FFFFFFF) = invSecond k std w := by
  simp only [invSecond, firstWord_and_mask, secondWord_and_mask, alpha10_and_mask, chroma10_and_mask, luma10_and_mask]

/-- Settles O23: both pixels are made from fields, and no field holds a masked bit. -/
theorem topBitsAreIgnoredOnDecode : Obligations.TopBitsAreIgnoredOnDecode := by
  intro s w
  have hmasked := exec_invPair (w &&& 0x3FFFFFFF3FFFFFFF) s
  rw [invFirst_and_mask, invSecond_and_mask] at hmasked
  exact ⟨_, _, exec_invPair w s, hmasked⟩

/-! ### FWD.PAIR leaves the four top bits 0 -/

theorem fwdPair_top_high (a : Arith) (std : Standard) (p1 p2 : Pixel) : (fwdPair a std p1 p2).extractLsb' 62 2 = 0 := by
  rw [fwdPair, extractLsb'_joinWords_high _ _ (k := 30) (Nat.le_refl 32), packWord_top]

theorem fwdPair_top_low (a : Arith) (std : Standard) (p1 p2 : Pixel) : (fwdPair a std p1 p2).extractLsb' 30 2 = 0 := by
  rw [fwdPair, extractLsb'_joinWords_low _ _ (Nat.le_refl 32), packWord_top]

/-- MARKER has its two top bits set (R86, R92). -/
theorem ne_marker_of_top {w : Word64} (htop : w.extractLsb' 62 2 = 0) : w ≠ marker := by
  rintro rfl
  exact absurd htop (by decide)

/-! ### Byte 0 of each half -/

/-- Byte 0 of a packed word is the upper six bits of its alpha (R81, R85). -/
theorem packWord_byte0 (a c y : Field10) : ((packWord a c y).extractLsb' 24 8).toNat = a.toNat / 16 := by
  have hbits : (packWord a c y).extractLsb' 24 8 = (a >>> 4).setWidth 8 := by
    ext i hi
    have h20 : ¬ 24 + i < 20 := by omega
    have h10 : ¬ 24 + i < 10 := by omega
    have h32 : 24 + i < 32 := by omega
    have ha : 24 + i - 20 = 4 + i := by omega
    have hc : c.getLsbD (24 + i - 10) = false := BitVec.getLsbD_of_ge _ _ (by omega)
    have hy : y.getLsbD (24 + i) = false := BitVec.getLsbD_of_ge _ _ (by omega)
    simp [packWord, BitVec.getElem_extractLsb', h20, h10, h32, ha, hc, hy]
  have := a.isLt
  rw [hbits, BitVec.toNat_setWidth, BitVec.toNat_ushiftRight, Nat.shiftRight_eq_div_pow]
  omega

/-- The alpha of both profiles, as one fraction (R133, R142). -/
theorem aReal_exact (std : Standard) (alpha : Byte) :
    aReal .exactRational (coefficients .exactRational std) alpha = 64 + 292 / 85 * alpha.toNat := by
  cases std <;> norm_num [aReal, coefficients, deriveCoefficients]

/-- Alpha10 lies in 64 to 940 (R138). -/
theorem fwdA_bounds (std : Standard) (alpha : Byte) :
    64 ≤ (fwdA .exactRational std alpha).toNat ∧ (fwdA .exactRational std alpha).toNat ≤ 940 := by
  have h0 : (0 : Q) ≤ alpha.toNat := Nat.cast_nonneg _
  have h255 : (alpha.toNat : Q) ≤ 255 := by exact_mod_cast Nat.le_of_lt_succ alpha.isLt
  generalize hx : (64 + 292 / 85 * alpha.toNat : Q) = x
  have hlo : ((64 : Int) : Q) ≤ x := by push_cast; linarith
  have hhi : x ≤ ((940 : Int) : Q) := by push_cast; linarith
  have hfloor_lo : 64 ≤ x.floor := Rat.le_floor_iff.mpr hlo
  have hfloor_hi : x.floor ≤ 940 := by exact_mod_cast (floor_le_self x).trans hhi
  rw [fwdA, toField10_exact, aReal_exact, hx, trunc_of_nonneg (by linarith), BitVec.toNat_ofInt]
  omega

/-- Byte 0 of a word whose alpha the forward converter made (R85). -/
theorem packWord_fwdA_byte0 (std : Standard) (alpha : Byte) (c y : Field10) :
    0x04 ≤ ((packWord (fwdA .exactRational std alpha) c y).extractLsb' 24 8).toNat ∧
      ((packWord (fwdA .exactRational std alpha) c y).extractLsb' 24 8).toNat ≤ 0x3A := by
  have := fwdA_bounds std alpha
  rw [packWord_byte0]
  omega

/-- Settles O17: the zero bits come from PACK, whatever the fields; byte 0 is the top of alpha. -/
theorem converterNeverMakesTheMarker : Obligations.ConverterNeverMakesTheMarker := by
  intro s p1 p2
  have htop := fwdPair_top_high s.config.arith s.std p1 p2
  refine ⟨_, exec_fwdPair p1 p2 s, ne_marker_of_top htop, htop, fwdPair_top_low _ _ _ _, fun hexact => ?_⟩
  rw [hexact, fwdPair, extractLsb'_joinWords_high _ _ (k := 24) (Nat.le_refl 32),
    extractLsb'_joinWords_low _ _ (Nat.le_refl 32)]
  obtain ⟨hlo1, hhi1⟩ := packWord_fwdA_byte0 s.std p1.a (fwdCb .exactRational s.std p1.r p1.g p1.b)
    (fwdY .exactRational s.std p1.r p1.g p1.b)
  obtain ⟨hlo2, hhi2⟩ := packWord_fwdA_byte0 s.std p2.a (fwdCr .exactRational s.std p1.r p1.g p1.b)
    (fwdY .exactRational s.std p2.r p2.g p2.b)
  exact ⟨hlo1, hhi1, hlo2, hhi2⟩

/-! ### The black pair -/

/-- A black transparent pixel leaves of each formula its offset (R130 to R133). -/
theorem real_black (c : Coefficients) :
    yReal .exactRational c 0 0 0 = c.lumaOffset ∧ cbReal .exactRational c 0 0 0 = c.chromaOffset ∧
    crReal .exactRational c 0 0 0 = c.chromaOffset ∧ aReal .exactRational c 0 = c.alphaOffset := by
  simp [yReal, cbReal, crReal, aReal]

/-- The offsets are 64, 512 and 64 in both profiles (R112, R113). -/
theorem offsets_exact (std : Standard) :
    (coefficients .exactRational std).lumaOffset = 64 ∧ (coefficients .exactRational std).chromaOffset = 512 ∧
    (coefficients .exactRational std).alphaOffset = 64 := by
  cases std <;> exact ⟨rfl, rfl, rfl⟩

/-- R97, for either profile. -/
theorem fwdPair_black (std : Standard) :
    fwdPair .exactRational std ⟨0, 0, 0, 0⟩ ⟨0, 0, 0, 0⟩ = 0x0408004004080040 := by
  obtain ⟨hy, hcb, hcr, ha⟩ := real_black (coefficients .exactRational std)
  obtain ⟨hluma, hchroma, halpha⟩ := offsets_exact std
  simp only [fwdPair, fwdA, fwdCb, fwdCr, fwdY, toField10_exact, hy, hcb, hcr, ha, hluma, hchroma, halpha]
  decide

/-- Settles O16 by `fwdPair_black`: the pair is black under both profiles, and R97 writes out BT.601. -/
theorem blackPairIsTheWorkedExample : Obligations.BlackPairIsTheWorkedExample := by
  intro s hexact _
  have hpair := exec_fwdPair ⟨0, 0, 0, 0⟩ ⟨0, 0, 0, 0⟩ s
  rw [hexact, fwdPair_black] at hpair
  exact ⟨_, hpair, by decide⟩

end Sys2Proof.Machine

/-! ## Stream records

What LIT and RUN do as instructions (R87, R226; log entry 10), and that RLD.READ at a record boundary does what the
record in the stream does (R88, R225). -/

namespace Sys2Proof.Machine

/-! ### LIT and RUN -/

theorem exec_lit (v : Word64) (s : State) :
    exec (.lit v) s = .next ((s.withDecoder (s.decRo + 8) s.decRr).withResult (.sample (some v))) := rfl

/-- A run of length 0 has no meaning (R89, R226). -/
theorem exec_run_zero (v : Word64) (s : State) : exec (.run 0 v) s = .refused .runLengthZero := rfl

/-- Any other run is entered, and its value delivered for the first time. -/
theorem exec_run_of_ne_zero {l : Count} (hl : l ≠ 0) (v : Word64) (s : State) :
    exec (.run l v) s = .next (delivered (deliverRunHead l v (s.withDecoder (s.decRo + 16) (l - 1)))) := by
  show execRun l v s = _
  rw [execRun, enterRun_ok.mpr ⟨hl, rfl⟩, ok_bind, pure_eq_ok, outcomeOf_ok]

/-- The first delivery of a run, under both values of RUN1_DELIVERIES (R226). -/
theorem delivered_deliverRunHead (l : Count) (v : Word64) (s : State) :
    delivered (deliverRunHead l v s) =
      (s.withDecoder (if l = 1 ∧ s.config.run1Deliveries = .once then s.decRo + 8 else s.decRo) s.decRr).withResult
        (.sample (some v)) := by
  unfold deliverRunHead
  split <;> rfl

/-- Settles O42, one lemma for each of LIT, a run and the run of length 0. -/
theorem recordsDeliverAtTheBoundary : Obligations.RecordsDeliverAtTheBoundary := by
  intro s l v
  refine ⟨exec_lit v s, fun hl => ?run, ?zero⟩
  case run =>
    have hro : s.decRo + 16 + 8 = s.decRo + 24 := BitVec.add_assoc s.decRo 16 8
    rw [exec_run_of_ne_zero hl, delivered_deliverRunHead]
    simp only [State.withDecoder_decRo, State.withDecoder_config, hro]
    rfl
  case zero =>
    rintro rfl
    exact exec_run_zero v s

/-! ### RLD.READ at a record boundary -/

section
variable {s : State}

/-- What RLD.READ on the registers delivers, the operation answers. -/
theorem exec_rldRead_ok {x : Option Word64 × State} (h : rldRead s = .ok x) : exec .rldRead s = .next (delivered x) := by
  show execRldRead s = _
  rw [execRldRead, h, ok_bind, pure_eq_ok, outcomeOf_ok]

/-- Fewer than 8 bytes are the end of the stream (R221). -/
theorem exec_rldRead_end (h8 : s.remain < 8) : exec .rldRead s = .next (s.withResult (.sample none)) :=
  exec_rldRead_ok (if_pos h8)

/-- A word that opens no run record is a LIT record (R224). -/
theorem exec_rldRead_lit (hrr : s.decRr = 0) (h8 : 8 ≤ s.remain) (hin : s.decRo.toNat + 8 ≤ s.comp.len.toNat)
    (hlit : ¬ (24 ≤ s.remain ∧ wordIn s.comp.mem s.decRo.toNat = marker)) :
    exec .rldRead s = exec (.lit (wordIn s.comp.mem s.decRo.toNat)) s := by
  have hboundary : s.insideRun = false := by rw [State.insideRun, hrr]; rfl
  have hread : rldRead s = .ok (deliverLiteral (wordIn s.comp.mem s.decRo.toNat) s) := by
    rw [rldRead, if_neg (by omega), hboundary, if_neg Bool.false_ne_true, w64_inside hin, ok_bind, if_neg hlit,
      pure_eq_ok]
  exact exec_rldRead_ok hread

/-- A run header that lies in COMP is a RUN record, one of length 0 included (R223). -/
theorem exec_rldRead_run (hrr : s.decRr = 0) (h24 : 24 ≤ s.remain) (hin : s.decRo.toNat + 24 ≤ s.comp.len.toNat)
    (hm : wordIn s.comp.mem s.decRo.toNat = marker) :
    exec .rldRead s =
      exec (.run (wordIn s.comp.mem (s.decRo.toNat + 8)) (wordIn s.comp.mem (s.decRo.toNat + 16))) s := by
  have hw : w64 s s.decRo.toNat = .ok marker := hm ▸ w64_inside (by omega)
  have hread := rldRead_run_header h24 hrr hw
  rw [w64_inside (by omega), ok_bind] at hread
  by_cases h0 : wordIn s.comp.mem (s.decRo.toNat + 8) = 0
  · rw [h0] at hread ⊢
    exact exec_rldRead_refused hread
  · have hro : (s.decRo + 16).toNat = s.decRo.toNat + 16 := toNat_decRo_add (n := 16) (by omega)
    have hvalue : w64 (s.withDecoder (s.decRo + 16) (wordIn s.comp.mem (s.decRo.toNat + 8) - 1)) (s.decRo + 16).toNat =
        .ok (wordIn s.comp.mem (s.decRo.toNat + 16)) := by
      rw [hro]
      exact w64_inside hin
    rw [enterRun_ok.mpr ⟨h0, rfl⟩, ok_bind, State.withDecoder_decRo, hvalue, ok_bind, pure_eq_ok] at hread
    rw [exec_rldRead_ok hread, exec_run_of_ne_zero h0]

end

/-! ### The record in the stream -/

/-- A word of the bytes read is the word of the buffer. -/
theorem be64At_readBytes (m : Memory) (a : Nat) {n i : Nat} (h : i + 8 ≤ n) :
    be64At (readBytes m a n) i = wordIn m (a + i) := by
  have hbyte : ∀ k, k < 8 → byteAt (readBytes m a n) (i + k) = byteAt (readBytes m (a + i) 8) k := by
    intro k hk
    rw [byteAt, byteAt, readBytes_getD _ _ _ _ (by omega), readBytes_getD _ _ _ _ hk, Nat.add_assoc]
  have h0 := hbyte 0 (by decide)
  rw [Nat.add_zero] at h0
  simp only [wordIn, be64At, be32At, Nat.add_assoc, Nat.reduceAdd, Nat.zero_add, h0, hbyte 1 (by decide),
    hbyte 2 (by decide), hbyte 3 (by decide), hbyte 4 (by decide), hbyte 5 (by decide), hbyte 6 (by decide),
    hbyte 7 (by decide)]

/-- All that remains of the stream, or its next 24 bytes: as many as the longest record takes (R88). -/
def nextRecordBytes (s : State) : List Byte := readBytes s.comp.mem s.decRo.toNat (min 24 s.remain)

theorem nextRecordBytes_length (s : State) : (nextRecordBytes s).length = min 24 s.remain := readBytes_length _ _ _

theorem be64At_nextRecordBytes {s : State} {i : Nat} (h : i + 8 ≤ min 24 s.remain) :
    be64At (nextRecordBytes s) i = wordIn s.comp.mem (s.decRo.toNat + i) := be64At_readBytes _ _ h

/-- The decoder of records makes the choice that RLD.READ makes at a record boundary (R88, R225). -/
theorem decodeRecord_nextRecordBytes (s : State) :
    decodeRecord (nextRecordBytes s) =
      if s.remain < 8 then .error .endOfStream
      else if 24 ≤ s.remain ∧ wordIn s.comp.mem s.decRo.toNat = marker then
        .ok (.run (wordIn s.comp.mem (s.decRo.toNat + 8)) (wordIn s.comp.mem (s.decRo.toNat + 16)),
          (nextRecordBytes s).drop 24)
      else .ok (.lit (wordIn s.comp.mem s.decRo.toNat), (nextRecordBytes s).drop 8) := by
  have hlen := nextRecordBytes_length s
  split
  next h8 => exact decodeRecord_short (by omega)
  next h8 =>
    have hfirst : be64At (nextRecordBytes s) 0 = wordIn s.comp.mem s.decRo.toNat :=
      be64At_nextRecordBytes (by omega)
    split
    next hrun =>
      obtain ⟨h24, hm⟩ := hrun
      rw [decodeRecord_run (by omega) (hfirst.trans hm), be64At_nextRecordBytes (by omega),
        be64At_nextRecordBytes (by omega)]
    next hlit =>
      rw [decodeRecord_lit (by omega) (fun h => hlit ⟨by omega, hfirst.symm.trans h.2⟩), hfirst]

/-- Settles O41, branch by branch of `decodeRecord_nextRecordBytes`. -/
theorem readRunsTheRecordInTheStream : Obligations.ReadRunsTheRecordInTheStream := by
  intro s hrr n hn
  have hin : s.decRo.toNat + min 24 s.remain ≤ s.comp.len.toNat := hn
  show (∀ i rest, decodeRecord (nextRecordBytes s) = .ok (i, rest) → exec .rldRead s = exec i s) ∧
    ∀ e, decodeRecord (nextRecordBytes s) = .error e → exec .rldRead s = .next (s.withResult (.sample none))
  rw [decodeRecord_nextRecordBytes]
  split
  next h8 => exact ⟨fun _ _ h => (nomatch h), fun _ _ => exec_rldRead_end h8⟩
  next h8 =>
    split
    next hrun =>
      refine ⟨fun i rest h => ?_, fun _ h => (nomatch h)⟩
      obtain ⟨rfl, -⟩ := Prod.mk.inj (Except.ok.inj h)
      exact exec_rldRead_run hrr hrun.1 (by omega) hrun.2
    next hlit =>
      refine ⟨fun i rest h => ?_, fun _ h => (nomatch h)⟩
      obtain ⟨rfl, -⟩ := Prod.mk.inj (Except.ok.inj h)
      exact exec_rldRead_lit hrr (by omega) (by omega) hlit

end Sys2Proof.Machine

/-! ## Operations without a result

The model's choice for its result field (log entry 7), read off `Writes`. -/

namespace Sys2Proof.Machine

/-- Settles O55: only the answers, RLE.FINISH, RLD.READ and the two records put a result into the field, and the
statement names none of them. -/
theorem operationsWithoutAResultAnswerNone : Obligations.OperationsWithoutAResultAnswerNone := by
  intro i s t he hi
  cases exec_writes he with
  | profileSel | rleInit | rlePush | rleFlush | rldInit | encode | encodeFailed | decode | decodeFailed => rfl
  | rleFinish | rldRead | lit | run => simp at hi
  | answer hanswers =>
    obtain ⟨_, rfl⟩ | rfl | ⟨_, rfl⟩ | rfl | ⟨_, rfl⟩ | ⟨_, _, _, _, rfl⟩ | ⟨_, _, _, _, rfl⟩ := hi <;>
      nomatch hanswers

end Sys2Proof.Machine

/-! ## The profile

PROFILE.SEL (R110), the coefficient file in the spec's own number system (R111 to R116), and the identities of R117.
These hold for any file made from its two luma weights, so they are proved from the relations of R112, R114 and R115,
not from the values of R116. -/

namespace Sys2Proof.Machine

/-! ### PROFILE.SEL -/

theorem exec_profileSel (height : Dim) (s : State) :
    exec (.profileSel height) s = .next ((s.withStd (standardOf height)).withResult .noResult) := rfl

/-- Settles O8: PROFILE.SEL writes `standardOf height`, and HD_HEIGHT is 720. -/
theorem profileSelSelectsByHeight : Obligations.ProfileSelSelectsByHeight :=
  fun s height => ⟨.noResult, exec_profileSel height s⟩

/-! ### The coefficient file under exact rationals -/

theorem coefficients_exact_bt601 :
    coefficients .exactRational .bt601 =
      { kr := 299 / 1000, kb := 57 / 500, kg := 587 / 1000, lumaScale := 219 / 64, lumaOffset := 64,
        chromaScale := 7 / 4, chromaOffset := 512, alphaScale := 292 / 85, alphaOffset := 64,
        krOver1mKb := 299 / 886, kgOver1mKb := 587 / 886, kbOver1mKr := 114 / 701, kgOver1mKr := 587 / 701,
        oneMinusKr := 701 / 1000, oneMinusKb := 443 / 500,
        crToG := 209599 / 587000, cbToG := 25251 / 146750 } := by
  norm_num [coefficients, deriveCoefficients]

theorem coefficients_exact_bt709 :
    coefficients .exactRational .bt709 =
      { kr := 1063 / 5000, kb := 361 / 5000, kg := 447 / 625, lumaScale := 219 / 64, lumaOffset := 64,
        chromaScale := 7 / 4, chromaOffset := 512, alphaScale := 292 / 85, alphaOffset := 64,
        krOver1mKb := 1063 / 4639, kgOver1mKb := 3576 / 4639, kbOver1mKr := 361 / 3937, kgOver1mKr := 3576 / 3937,
        oneMinusKr := 3937 / 5000, oneMinusKb := 4639 / 5000,
        crToG := 4185031 / 17880000, cbToG := 1674679 / 17880000 } := by
  norm_num [coefficients, deriveCoefficients]

/-- CGAIN is 7/8 in both profiles (R113). -/
theorem cgain_exact (std : Standard) : cgain .exactRational (coefficients .exactRational std) = 7 / 8 := by
  cases std with
  | bt601 => rw [coefficients_exact_bt601]; norm_num [cgain]
  | bt709 => rw [coefficients_exact_bt709]; norm_num [cgain]

/-- Settles O9, one lemma for each profile and one for CGAIN. -/
theorem coefficientFileHoldsTheExactValues : Obligations.CoefficientFileHoldsTheExactValues :=
  ⟨coefficients_exact_bt601, coefficients_exact_bt709, cgain_exact .bt601, cgain_exact .bt709⟩

/-! ### How the file hangs together -/

/-- `c` is made from its two luma weights as R112, R114 and R115 say, and no denominator there is 0. -/
structure ExactlyDerived (c : Coefficients) : Prop where
  kg : c.kg = 1 - c.kr - c.kb
  oneMinusKr : c.oneMinusKr = 1 - c.kr
  oneMinusKb : c.oneMinusKb = 1 - c.kb
  krOver1mKb : c.krOver1mKb = c.kr / (1 - c.kb)
  kgOver1mKb : c.kgOver1mKb = c.kg / (1 - c.kb)
  kbOver1mKr : c.kbOver1mKr = c.kb / (1 - c.kr)
  kgOver1mKr : c.kgOver1mKr = c.kg / (1 - c.kr)
  crToG : c.crToG = c.kr * (1 - c.kr) / c.kg
  cbToG : c.cbToG = c.kb * (1 - c.kb) / c.kg
  oneMinusKr_ne_zero : 1 - c.kr ≠ 0
  oneMinusKb_ne_zero : 1 - c.kb ≠ 0
  kg_ne_zero : c.kg ≠ 0

/-- The formulas hold for any two luma weights; only the denominators ask something of them. -/
theorem deriveCoefficients_exactlyDerived {kr kb : Q} (hkr : 1 - kr ≠ 0) (hkb : 1 - kb ≠ 0) (hkg : 1 - kr - kb ≠ 0) :
    ExactlyDerived (deriveCoefficients .exactRational kr kb) :=
  ⟨rfl, rfl, rfl, rfl, rfl, rfl, rfl, rfl, rfl, hkr, hkb, hkg⟩

theorem coefficients_exactlyDerived (std : Standard) : ExactlyDerived (coefficients .exactRational std) := by
  cases std <;> exact deriveCoefficients_exactlyDerived (by norm_num) (by norm_num) (by norm_num)

/-! ### The unquantised forward values -/

/-- `Y'`, the weighted sum in the formula of R130. -/
def lumaSum (c : Coefficients) (r g b : Q) : Q := c.kr * r + c.kg * g + c.kb * b

/-- `Cb_full`, the bracket in the formula of R131. -/
def cbBracket (c : Coefficients) (r g b : Q) : Q := -c.krOver1mKb * r - c.kgOver1mKb * g + b

/-- `Cr_full`, the bracket in the formula of R132. -/
def crBracket (c : Coefficients) (r g b : Q) : Q := r - c.kgOver1mKr * g - c.kbOver1mKr * b

theorem yReal_exact (c : Coefficients) (r g b : Byte) :
    yReal .exactRational c r g b = c.lumaOffset + c.lumaScale * lumaSum c r.toNat g.toNat b.toNat := rfl

theorem cbReal_exact (c : Coefficients) (r g b : Byte) :
    cbReal .exactRational c r g b = c.chromaOffset + cgain .exactRational c * cbBracket c r.toNat g.toNat b.toNat := rfl

theorem crReal_exact (c : Coefficients) (r g b : Byte) :
    crReal .exactRational c r g b = c.chromaOffset + cgain .exactRational c * crBracket c r.toNat g.toNat b.toNat := rfl

/-! ### The identities of R117 -/

section
variable {c : Coefficients} (hc : ExactlyDerived c)
include hc

theorem forward_cb_ratios_sum : c.krOver1mKb + c.kgOver1mKb = 1 := by
  have hne := hc.oneMinusKb_ne_zero
  rw [hc.krOver1mKb, hc.kgOver1mKb, hc.kg]
  field_simp
  ring

theorem forward_cr_ratios_sum : c.kgOver1mKr + c.kbOver1mKr = 1 := by
  have hne := hc.oneMinusKr_ne_zero
  rw [hc.kgOver1mKr, hc.kbOver1mKr, hc.kg]
  field_simp
  ring

theorem cbBracket_grey (x : Q) : cbBracket c x x x = 0 := by
  unfold cbBracket
  linear_combination -x * forward_cb_ratios_sum hc

theorem crBracket_grey (x : Q) : crBracket c x x x = 0 := by
  unfold crBracket
  linear_combination -x * forward_cr_ratios_sum hc

theorem cbBracket_eq (r g b : Q) : cbBracket c r g b = (b - lumaSum c r g b) / (1 - c.kb) := by
  have hne := hc.oneMinusKb_ne_zero
  rw [cbBracket, lumaSum, hc.krOver1mKb, hc.kgOver1mKb]
  field_simp
  ring

theorem crBracket_eq (r g b : Q) : crBracket c r g b = (r - lumaSum c r g b) / (1 - c.kr) := by
  have hne := hc.oneMinusKr_ne_zero
  rw [crBracket, lumaSum, hc.kgOver1mKr, hc.kbOver1mKr]
  field_simp
  ring

/-- With its denominator cleared, a chroma bracket is a colour difference. -/
theorem oneMinusKb_mul_cbBracket (r g b : Q) : (1 - c.kb) * cbBracket c r g b = b - lumaSum c r g b := by
  rw [cbBracket_eq hc, mul_div_cancel₀ _ hc.oneMinusKb_ne_zero]

theorem oneMinusKr_mul_crBracket (r g b : Q) : (1 - c.kr) * crBracket c r g b = r - lumaSum c r g b := by
  rw [crBracket_eq hc, mul_div_cancel₀ _ hc.oneMinusKr_ne_zero]

theorem rReal_of_unquantised (r g b : Q) :
    rReal .exactRational c (lumaSum c r g b) (crBracket c r g b) = r := by
  rw [rReal, add_exact, mul_exact, hc.oneMinusKr, oneMinusKr_mul_crBracket hc, add_sub_cancel]

theorem bReal_of_unquantised (r g b : Q) :
    bReal .exactRational c (lumaSum c r g b) (cbBracket c r g b) = b := by
  rw [bReal, add_exact, mul_exact, hc.oneMinusKb, oneMinusKb_mul_cbBracket hc, add_sub_cancel]

/-- Green is what the two colour differences leave of the luma, because the three weights sum to 1. -/
theorem gReal_of_unquantised (r g b : Q) :
    gReal .exactRational c (lumaSum c r g b) (cbBracket c r g b) (crBracket c r g b) = g := by
  have hne := hc.kg_ne_zero
  have hsum : c.kr + c.kg + c.kb = 1 := by rw [hc.kg]; ring
  generalize hy : lumaSum c r g b = y
  have hcr : c.crToG * crBracket c r g b = c.kr * (r - y) / c.kg := by
    rw [hc.crToG, ← hy, ← oneMinusKr_mul_crBracket hc]; ring
  have hcb : c.cbToG * cbBracket c r g b = c.kb * (b - y) / c.kg := by
    rw [hc.cbToG, ← hy, ← oneMinusKb_mul_cbBracket hc]; ring
  calc gReal .exactRational c y (cbBracket c r g b) (crBracket c r g b)
      = y - c.crToG * crBracket c r g b - c.cbToG * cbBracket c r g b := rfl
    _ = ((c.kr + c.kg + c.kb) * y - c.kr * r - c.kb * b) / c.kg := by rw [hcr, hcb]; field_simp; ring
    _ = c.kg * g / c.kg := by rw [hsum, ← hy, lumaSum]; ring
    _ = g := mul_div_cancel_left₀ g hne

end

/-- Settles O10: both files are made from their luma weights, and the identities hold for every such file. -/
theorem profilesInvertExactlyBeforeQuantisation : Obligations.ProfilesInvertExactlyBeforeQuantisation := by
  intro std r g b
  have hc := coefficients_exactlyDerived std
  have hgrey : r = g → g = b → cbBracket (coefficients .exactRational std) r g b = 0 ∧
      crBracket (coefficients .exactRational std) r g b = 0 := by
    rintro rfl rfl
    exact ⟨cbBracket_grey hc r, crBracket_grey hc r⟩
  exact ⟨forward_cb_ratios_sum hc, forward_cr_ratios_sum hc, hgrey, cbBracket_eq hc r g b, crBracket_eq hc r g b,
    rReal_of_unquantised hc r g b, gReal_of_unquantised hc r g b, bReal_of_unquantised hc r g b⟩

end Sys2Proof.Machine

/-! ## ForwardConverter

PACK, FWD.PAIR and FWD.BATCH (R135 to R137); the real values of R130 to R133 as the fractions of R142, which make the
results floor quotients; and the ranges of R138, which hold because luma and the subtrahends of chroma are weighted
means of the channels. -/

namespace Sys2Proof.Machine

/-! ### Packing -/

theorem exec_pack (a c y : Field10) (s : State) :
    exec (.pack a c y) s = .next (s.withResult (.word32 (packWord a c y))) := rfl

/-- Settles O13: PACK answers `packWord`, whose bits are known. -/
theorem packPlacesItsFields : Obligations.PackPlacesItsFields :=
  fun s a c y => ⟨packWord a c y, exec_pack a c y s, rfl, packWord_top a c y, alpha10_packWord a c y,
    chroma10_packWord a c y, luma10_packWord a c y⟩

/-- The second pixel counts through its luma and its alpha alone (R136). -/
theorem fwdPair_congr_second {a : Arith} {std : Standard} (p1 : Pixel) {p2 q2 : Pixel}
    (hluma : fwdY a std p2.r p2.g p2.b = fwdY a std q2.r q2.g q2.b) (halpha : p2.a = q2.a) :
    fwdPair a std p1 p2 = fwdPair a std p1 q2 := by
  rw [fwdPair, hluma, halpha, fwdPair]

/-- The outcome of FWD.Y tells its result. -/
theorem fwdY_eq_of_exec_eq {s : State} {r g b r' g' b' : Byte} (h : exec (.fwdY r g b) s = exec (.fwdY r' g' b') s) :
    fwdY s.config.arith s.std r g b = fwdY s.config.arith s.std r' g' b' := by
  rw [exec_fwdY, exec_fwdY] at h
  have hresult := congrArg State.result (Host.Outcome.next.inj h)
  rw [State.withResult_result, State.withResult_result] at hresult
  exact Result.field10.inj hresult

/-- Settles O14: the equations of the components are those of FWD.PAIR. -/
theorem pairTakesChromaFromItsFirstPixel : Obligations.PairTakesChromaFromItsFirstPixel := by
  refine ⟨fun s p1 p2 => ?components, fun s p1 p2 q2 hexec halpha => ?second⟩
  case components =>
    exact ⟨_, _, _, _, _, _, _, _, exec_fwdY p1.r p1.g p1.b s, exec_fwdY p2.r p2.g p2.b s, exec_fwdCb p1.r p1.g p1.b s,
      exec_fwdCr p1.r p1.g p1.b s, exec_fwdA p1.a s, exec_fwdA p2.a s, exec_pack _ _ _ s, exec_pack _ _ _ s,
      exec_fwdPair p1 p2 s⟩
  case second =>
    rw [exec_fwdPair, exec_fwdPair, fwdPair_congr_second p1 (fwdY_eq_of_exec_eq hexec) halpha]

/-- Settles O15: each of the four words is that of FWD.PAIR. -/
theorem batchConvertsItsFourPairs : Obligations.BatchConvertsItsFourPairs :=
  fun s p => ⟨_, _, _, _, exec_fwdPair p.p0 p.p1 s, exec_fwdPair p.p2 p.p3 s, exec_fwdPair p.p4 p.p5 s,
    exec_fwdPair p.p6 p.p7 s, exec_fwdBatch p s⟩

/-! ### The integer-only forms -/

/-- An integer-only form of R142, before its division. -/
structure IntegerForm where
  numerator : Int
  divisor : Nat

/-- The fraction. -/
def IntegerForm.value (f : IntegerForm) : Q := f.numerator / f.divisor

/-- The floor quotient. -/
def IntegerForm.quotient (f : IntegerForm) : Int := f.numerator / f.divisor

theorem IntegerForm.floor_value (f : IntegerForm) : f.value.floor = f.quotient :=
  Rat.floor_intCast_div_natCast f.numerator f.divisor

/-- A form with a positive numerator truncates to its quotient (R11, R142). -/
theorem IntegerForm.toField10_value {f : IntegerForm} (h : 0 < f.numerator) :
    toField10 .exactRational f.value = BitVec.ofInt 10 f.quotient := by
  have hnum : (0 : Q) ≤ f.numerator := by exact_mod_cast h.le
  have hvalue : 0 ≤ f.value := div_nonneg hnum (Nat.cast_nonneg _)
  rw [toField10_exact, trunc_of_nonneg hvalue, f.floor_value]

/-- The form of FWD.Y (R142). -/
def lumaForm (std : Standard) (r g b : Byte) : IntegerForm :=
  match std with
  | .bt601 => ⟨4096000 + 65481 * (r.toNat : Int) + 128553 * g.toNat + 24966 * b.toNat, 64000⟩
  | .bt709 => ⟨20480000 + 232797 * (r.toNat : Int) + 783144 * g.toNat + 79059 * b.toNat, 320000⟩

/-- The form of FWD.CB (R142). -/
def cbForm (std : Standard) (r g b : Byte) : IntegerForm :=
  match std with
  | .bt601 => ⟨3629056 - 2093 * (r.toNat : Int) - 4109 * g.toNat + 6202 * b.toNat, 7088⟩
  | .bt709 => ⟨19001344 - 7441 * (r.toNat : Int) - 25032 * g.toNat + 32473 * b.toNat, 37112⟩

/-- The form of FWD.CR (R142). -/
def crForm (std : Standard) (r g b : Byte) : IntegerForm :=
  match std with
  | .bt601 => ⟨2871296 + 4907 * (r.toNat : Int) - 4109 * g.toNat - 798 * b.toNat, 5608⟩
  | .bt709 => ⟨16125952 + 27559 * (r.toNat : Int) - 25032 * g.toNat - 2527 * b.toNat, 31496⟩

/-- The form of FWD.A in both profiles (R142). -/
def alphaForm (alpha : Byte) : IntegerForm := ⟨5440 + 292 * (alpha.toNat : Int), 85⟩

theorem yReal_eq_value (std : Standard) (r g b : Byte) :
    yReal .exactRational (coefficients .exactRational std) r g b = (lumaForm std r g b).value := by
  rw [yReal_exact, lumaSum, IntegerForm.value]
  cases std with
  | bt601 => rw [coefficients_exact_bt601, lumaForm]; push_cast; ring
  | bt709 => rw [coefficients_exact_bt709, lumaForm]; push_cast; ring

theorem cbReal_eq_value (std : Standard) (r g b : Byte) :
    cbReal .exactRational (coefficients .exactRational std) r g b = (cbForm std r g b).value := by
  rw [cbReal_exact, cgain_exact, cbBracket, IntegerForm.value]
  cases std with
  | bt601 => rw [coefficients_exact_bt601, cbForm]; push_cast; ring
  | bt709 => rw [coefficients_exact_bt709, cbForm]; push_cast; ring

theorem crReal_eq_value (std : Standard) (r g b : Byte) :
    crReal .exactRational (coefficients .exactRational std) r g b = (crForm std r g b).value := by
  rw [crReal_exact, cgain_exact, crBracket, IntegerForm.value]
  cases std with
  | bt601 => rw [coefficients_exact_bt601, crForm]; push_cast; ring
  | bt709 => rw [coefficients_exact_bt709, crForm]; push_cast; ring

theorem aReal_eq_value (std : Standard) (alpha : Byte) :
    aReal .exactRational (coefficients .exactRational std) alpha = (alphaForm alpha).value := by
  rw [aReal_exact, IntegerForm.value, alphaForm]
  push_cast
  ring

theorem lumaForm_pos (std : Standard) (r g b : Byte) : 0 < (lumaForm std r g b).numerator := by
  cases std <;> dsimp only [lumaForm] <;> omega

/-- A chroma numerator is least where the channels it subtracts are 255. -/
theorem cbForm_pos (std : Standard) (r g b : Byte) : 0 < (cbForm std r g b).numerator := by
  have hr := r.isLt
  have hg := g.isLt
  cases std <;> dsimp only [cbForm] <;> omega

theorem crForm_pos (std : Standard) (r g b : Byte) : 0 < (crForm std r g b).numerator := by
  have hg := g.isLt
  have hb := b.isLt
  cases std <;> dsimp only [crForm] <;> omega

theorem alphaForm_pos (alpha : Byte) : 0 < (alphaForm alpha).numerator := by
  dsimp only [alphaForm]
  omega

section
variable {s : State} (hexact : s.config.arith = .exactRational) {std : Standard} (hstd : s.std = std)
include hexact

theorem exec_fwdA_form (alpha : Byte) :
    exec (.fwdA alpha) s = .next (s.withResult (.field10 (BitVec.ofInt 10 (alphaForm alpha).quotient))) := by
  rw [exec_fwdA, hexact, fwdA, aReal_eq_value, IntegerForm.toField10_value (alphaForm_pos alpha)]

include hstd

theorem exec_fwdY_form (r g b : Byte) :
    exec (.fwdY r g b) s = .next (s.withResult (.field10 (BitVec.ofInt 10 (lumaForm std r g b).quotient))) := by
  rw [exec_fwdY, hexact, hstd, fwdY, yReal_eq_value, IntegerForm.toField10_value (lumaForm_pos std r g b)]

theorem exec_fwdCb_form (r g b : Byte) :
    exec (.fwdCb r g b) s = .next (s.withResult (.field10 (BitVec.ofInt 10 (cbForm std r g b).quotient))) := by
  rw [exec_fwdCb, hexact, hstd, fwdCb, cbReal_eq_value, IntegerForm.toField10_value (cbForm_pos std r g b)]

theorem exec_fwdCr_form (r g b : Byte) :
    exec (.fwdCr r g b) s = .next (s.withResult (.field10 (BitVec.ofInt 10 (crForm std r g b).quotient))) := by
  rw [exec_fwdCr, hexact, hstd, fwdCr, crReal_eq_value, IntegerForm.toField10_value (crForm_pos std r g b)]

end

/-- Settles O11: the equations above at each profile. -/
theorem forwardChannelsAreTheIntegerForms : Obligations.ForwardChannelsAreTheIntegerForms := by
  refine ⟨fun s r g b hexact hstd => ?bt601, fun s r g b hexact hstd => ?bt709, fun s a hexact => ?alpha⟩
  case bt601 =>
    exact ⟨lumaForm_pos .bt601 r g b, cbForm_pos .bt601 r g b, crForm_pos .bt601 r g b,
      exec_fwdY_form hexact hstd r g b, exec_fwdCb_form hexact hstd r g b, exec_fwdCr_form hexact hstd r g b⟩
  case bt709 =>
    exact ⟨lumaForm_pos .bt709 r g b, cbForm_pos .bt709 r g b, crForm_pos .bt709 r g b,
      exec_fwdY_form hexact hstd r g b, exec_fwdCb_form hexact hstd r g b, exec_fwdCr_form hexact hstd r g b⟩
  case alpha => exact exec_fwdA_form hexact a

/-! ### The ranges -/

/-- A channel as a number (R80). -/
theorem channel_bounds (v : Byte) : (0 : Q) ≤ v.toNat ∧ (v.toNat : Q) ≤ 255 :=
  ⟨Nat.cast_nonneg _, by exact_mod_cast Nat.le_of_lt_succ v.isLt⟩

/-- A weighted mean of channels is no less than 0 and no more than 255. -/
theorem weightedMean_bounds {p q t : Q} (hp : 0 ≤ p) (hq : 0 ≤ q) (ht : 0 ≤ t) (hsum : p + q + t = 1) (x y z : Byte) :
    0 ≤ p * x.toNat + q * y.toNat + t * z.toNat ∧ p * x.toNat + q * y.toNat + t * z.toNat ≤ 255 := by
  obtain ⟨hx0, hx⟩ := channel_bounds x
  obtain ⟨hy0, hy⟩ := channel_bounds y
  obtain ⟨hz0, hz⟩ := channel_bounds z
  refine ⟨by positivity, ?_⟩
  calc p * x.toNat + q * y.toNat + t * z.toNat ≤ p * 255 + q * 255 + t * 255 := by gcongr
    _ = (p + q + t) * 255 := by ring
    _ = 255 := by rw [hsum, one_mul]

/-- The two weights of a chroma ratio pair. -/
theorem weightedMean_two_bounds {p q : Q} (hp : 0 ≤ p) (hq : 0 ≤ q) (hsum : p + q = 1) (x y : Byte) :
    0 ≤ p * x.toNat + q * y.toNat ∧ p * x.toNat + q * y.toNat ≤ 255 := by
  have h := weightedMean_bounds hp hq le_rfl (by rw [hsum, add_zero]) x y 0
  simpa using h

/-- No weight and no ratio is negative (R111, R114). -/
structure NonnegWeights (c : Coefficients) : Prop where
  kr : 0 ≤ c.kr
  kg : 0 ≤ c.kg
  kb : 0 ≤ c.kb
  krOver1mKb : 0 ≤ c.krOver1mKb
  kgOver1mKb : 0 ≤ c.kgOver1mKb
  kbOver1mKr : 0 ≤ c.kbOver1mKr
  kgOver1mKr : 0 ≤ c.kgOver1mKr

theorem coefficients_nonnegWeights (std : Standard) : NonnegWeights (coefficients .exactRational std) := by
  cases std with
  | bt601 => rw [coefficients_exact_bt601]; constructor <;> norm_num
  | bt709 => rw [coefficients_exact_bt709]; constructor <;> norm_num

section
variable {c : Coefficients} (hc : ExactlyDerived c) (hw : NonnegWeights c)
include hc hw

theorem lumaSum_bounds (r g b : Byte) :
    0 ≤ lumaSum c r.toNat g.toNat b.toNat ∧ lumaSum c r.toNat g.toNat b.toNat ≤ 255 :=
  weightedMean_bounds hw.kr hw.kg hw.kb (by rw [hc.kg]; ring) r g b

/-- Blue less a mean of red and green. -/
theorem cbBracket_bounds (r g b : Byte) :
    -255 ≤ cbBracket c r.toNat g.toNat b.toNat ∧ cbBracket c r.toNat g.toNat b.toNat ≤ 255 := by
  obtain ⟨hb0, hb⟩ := channel_bounds b
  obtain ⟨hmean0, hmean⟩ := weightedMean_two_bounds hw.krOver1mKb hw.kgOver1mKb (forward_cb_ratios_sum hc) r g
  unfold cbBracket
  constructor <;> linarith

/-- Red less a mean of green and blue. -/
theorem crBracket_bounds (r g b : Byte) :
    -255 ≤ crBracket c r.toNat g.toNat b.toNat ∧ crBracket c r.toNat g.toNat b.toNat ≤ 255 := by
  obtain ⟨hr0, hr⟩ := channel_bounds r
  obtain ⟨hmean0, hmean⟩ := weightedMean_two_bounds hw.kgOver1mKr hw.kbOver1mKr (forward_cr_ratios_sum hc) g b
  unfold crBracket
  constructor <;> linarith

end

/-- The luma scale is 219/64 in both profiles (R112). -/
theorem lumaScale_exact (std : Standard) : (coefficients .exactRational std).lumaScale = 219 / 64 := by
  cases std <;> rfl

/-- Yreal lies in 64 to 936.578125 (R138). -/
theorem yReal_bounds (std : Standard) (r g b : Byte) :
    64 ≤ yReal .exactRational (coefficients .exactRational std) r g b ∧
      yReal .exactRational (coefficients .exactRational std) r g b ≤ 936578125 / 1000000 := by
  obtain ⟨hlo, hhi⟩ := lumaSum_bounds (coefficients_exactlyDerived std) (coefficients_nonnegWeights std) r g b
  obtain ⟨hoffset, _, _⟩ := offsets_exact std
  rw [yReal_exact, hoffset, lumaScale_exact]
  constructor <;> linarith

/-- Cbreal lies in 288.875 to 735.125 (R138). -/
theorem cbReal_bounds (std : Standard) (r g b : Byte) :
    288875 / 1000 ≤ cbReal .exactRational (coefficients .exactRational std) r g b ∧
      cbReal .exactRational (coefficients .exactRational std) r g b ≤ 735125 / 1000 := by
  obtain ⟨hlo, hhi⟩ := cbBracket_bounds (coefficients_exactlyDerived std) (coefficients_nonnegWeights std) r g b
  obtain ⟨_, hoffset, _⟩ := offsets_exact std
  rw [cbReal_exact, cgain_exact, hoffset]
  constructor <;> linarith

/-- Crreal lies in the same range (R138). -/
theorem crReal_bounds (std : Standard) (r g b : Byte) :
    288875 / 1000 ≤ crReal .exactRational (coefficients .exactRational std) r g b ∧
      crReal .exactRational (coefficients .exactRational std) r g b ≤ 735125 / 1000 := by
  obtain ⟨hlo, hhi⟩ := crBracket_bounds (coefficients_exactlyDerived std) (coefficients_nonnegWeights std) r g b
  obtain ⟨_, hoffset, _⟩ := offsets_exact std
  rw [crReal_exact, cgain_exact, hoffset]
  constructor <;> linarith

/-- Areal lies in 64 to 940 (R138). -/
theorem aReal_bounds (std : Standard) (alpha : Byte) :
    64 ≤ aReal .exactRational (coefficients .exactRational std) alpha ∧
      aReal .exactRational (coefficients .exactRational std) alpha ≤ 940 := by
  obtain ⟨h0, h255⟩ := channel_bounds alpha
  rw [aReal_exact]
  constructor <;> linarith

/-- A value that fits 10 bits is neither masked nor saturated (R134, R138). -/
theorem toNat_toField10_exact {x : Q} (h0 : 0 ≤ x) (h : x < 1024) :
    ((toField10 .exactRational x).toNat : Int) = x.floor := by
  have hlo : 0 ≤ x.floor := Rat.le_floor_iff.mpr (by exact_mod_cast h0)
  have hhi : x.floor < 1024 := by exact_mod_cast (floor_le_self x).trans_lt h
  rw [toField10_exact, trunc_of_nonneg h0, BitVec.toNat_ofInt]
  omega

/-- A field is the floor of its real value and keeps that value's bounds, rounded down. -/
theorem toField10_exact_range {x : Q} {lo hi : Nat} (hlo : (lo : Q) ≤ x) (hhi : x < hi + 1) (hfits : hi < 1024) :
    ((toField10 .exactRational x).toNat : Int) = x.floor ∧
      lo ≤ (toField10 .exactRational x).toNat ∧ (toField10 .exactRational x).toNat ≤ hi := by
  have h0 : 0 ≤ x := (Nat.cast_nonneg lo).trans hlo
  have h1024 : x < 1024 := hhi.trans_le (by exact_mod_cast hfits)
  have hfloor := toNat_toField10_exact h0 h1024
  have hfloor_lo : (lo : Int) ≤ x.floor := Rat.le_floor_iff.mpr (by exact_mod_cast hlo)
  have hfloor_hi : x.floor < hi + 1 := by exact_mod_cast (floor_le_self x).trans_lt hhi
  omega

/-- Luma10 is the floor of Yreal and lies in 64 to 936 (R138). -/
theorem fwdY_range (std : Standard) (r g b : Byte) :
    ((fwdY .exactRational std r g b).toNat : Int) =
        (yReal .exactRational (coefficients .exactRational std) r g b).floor ∧
      64 ≤ (fwdY .exactRational std r g b).toNat ∧ (fwdY .exactRational std r g b).toNat ≤ 936 := by
  obtain ⟨hlo, hhi⟩ := yReal_bounds std r g b
  exact toField10_exact_range (by exact_mod_cast hlo) (hhi.trans_lt (by norm_num)) (by decide)

/-- The bounds of Cbreal and Crreal in 10 bits (R138). -/
theorem chromaField_range {x : Q} (hlo : 288875 / 1000 ≤ x) (hhi : x ≤ 735125 / 1000) :
    ((toField10 .exactRational x).toNat : Int) = x.floor ∧
      288 ≤ (toField10 .exactRational x).toNat ∧ (toField10 .exactRational x).toNat ≤ 735 :=
  toField10_exact_range (le_trans (by norm_num) hlo) (hhi.trans_lt (by norm_num)) (by decide)

/-- Alpha10 is the floor of Areal (R138). -/
theorem toNat_fwdA (std : Standard) (alpha : Byte) :
    ((fwdA .exactRational std alpha).toNat : Int) =
      (aReal .exactRational (coefficients .exactRational std) alpha).floor := by
  obtain ⟨hlo, hhi⟩ := aReal_bounds std alpha
  exact toNat_toField10_exact (le_trans (by norm_num) hlo) (hhi.trans_lt (by norm_num))

/-- Settles O12: the ranges of the real values, and what they say of the fields. -/
theorem forwardResultsStayInRange : Obligations.ForwardResultsStayInRange := by
  intro std r g b a
  obtain ⟨hy_lo, hy_hi⟩ := yReal_bounds std r g b
  obtain ⟨hcb_lo, hcb_hi⟩ := cbReal_bounds std r g b
  obtain ⟨hcr_lo, hcr_hi⟩ := crReal_bounds std r g b
  obtain ⟨ha_lo, ha_hi⟩ := aReal_bounds std a
  obtain ⟨hy_floor, hy_field_lo, hy_field_hi⟩ := fwdY_range std r g b
  obtain ⟨hcb_floor, hcb_field_lo, hcb_field_hi⟩ := chromaField_range hcb_lo hcb_hi
  obtain ⟨hcr_floor, hcr_field_lo, hcr_field_hi⟩ := chromaField_range hcr_lo hcr_hi
  obtain ⟨ha_field_lo, ha_field_hi⟩ := fwdA_bounds std a
  exact ⟨hy_lo, hy_hi, hcb_lo, hcb_hi, hcr_lo, hcr_hi, ha_lo, ha_hi, hy_floor, hcb_floor, hcr_floor, toNat_fwdA std a,
    hy_field_lo, hy_field_hi, hcb_field_lo, hcb_field_hi, hcr_field_lo, hcr_field_hi, ha_field_lo, ha_field_hi⟩

end Sys2Proof.Machine

/-! ## InverseConverter

UNPACK (R160), the de-scaled values (R161 to R163), and INV.RGB, INV.PAIR and INV.BATCH (R164 to R168): what a channel
is of its real value; the real values as the fractions of R171; and how much of a value the truncation of the forward
converter loses, which bounds what the two round trips lose (R169, R170). -/

namespace Sys2Proof.Machine

/-! ### INV.BATCH and UNPACK -/

/-- Settles O24: the pixels of `invBatch` are those of INV.PAIR. -/
theorem invBatchIsFourPairs : Obligations.InvBatchIsFourPairs :=
  fun s w0 w1 w2 w3 => ⟨invBatch s.config s.std w0 w1 w2 w3, exec_invPair w0 s, exec_invPair w1 s, exec_invPair w2 s,
    exec_invPair w3 s, exec_invBatch w0 w1 w2 w3 s⟩

theorem exec_unpack (w : Word32) (s : State) :
    exec (.unpack w) s = .next (s.withResult (.fields (alpha10 w) (chroma10 w) (luma10 w))) := rfl

/-- A field of a word is the word shifted and masked (R95, R160). -/
theorem extractLsb'_eq_setWidth_shift (w : Word32) (k n : Nat) : w.extractLsb' k n = (w >>> k).setWidth n := by
  ext i hi
  simp [BitVec.getElem_extractLsb', BitVec.getElem_setWidth]

theorem exec_unpack_shift (w : Word32) (s : State) :
    exec (.unpack w) s = .next (s.withResult
      (.fields ((w >>> 20).setWidth 10) ((w >>> 10).setWidth 10) (w.setWidth 10))) := by
  have hluma : luma10 w = w.setWidth 10 := by rw [luma10, extractLsb'_eq_setWidth_shift, BitVec.ushiftRight_zero]
  rw [exec_unpack, hluma, alpha10, chroma10, extractLsb'_eq_setWidth_shift, extractLsb'_eq_setWidth_shift]

/-- The outcome of PACK tells its result. -/
theorem eq_packWord_of_exec_pack {s : State} {a c y : Field10} {w : Word32}
    (h : exec (.pack a c y) s = .next (s.withResult (.word32 w))) : w = packWord a c y := by
  have hresult := congrArg State.result (Host.Outcome.next.inj ((exec_pack a c y s).symm.trans h))
  rw [State.withResult_result, State.withResult_result] at hresult
  exact (Result.word32.inj hresult).symm

/-- UNPACK undoes PACK (R160). -/
theorem exec_unpack_packWord (a c y : Field10) (s : State) :
    exec (.unpack (packWord a c y)) s = .next (s.withResult (.fields a c y)) := by
  rw [exec_unpack, alpha10_packWord, chroma10_packWord, luma10_packWord]

/-- Settles O19: the fields are shifts, none of them holds a masked bit, and they are the ones that PACK packed. -/
theorem unpackShiftsAndMasks : Obligations.UnpackShiftsAndMasks := by
  refine ⟨fun s w => ⟨exec_unpack_shift w s, ?mask⟩, fun s a c y w hpack => ?undo⟩
  case mask => rw [exec_unpack, exec_unpack, alpha10_and_mask, chroma10_and_mask, luma10_and_mask]
  case undo => exact eq_packWord_of_exec_pack hpack ▸ exec_unpack_packWord a c y s

/-! ### The de-scaled values -/

/-- The alpha scale is 292/85 in both profiles (R113). -/
theorem alphaScale_exact (std : Standard) : (coefficients .exactRational std).alphaScale = 292 / 85 := by
  cases std with
  | bt601 => rw [coefficients_exact_bt601]
  | bt709 => rw [coefficients_exact_bt709]

theorem yFull_exact (std : Standard) (y : Field10) :
    yFull .exactRational (coefficients .exactRational std) y = (y.toNat - 64) * 64 / 219 := by
  obtain ⟨hoffset, _, _⟩ := offsets_exact std
  rw [yFull, hoffset, lumaScale_exact, num_exact, sub_exact, div_exact]
  ring

theorem uvFull_exact (std : Standard) (uv : Field10) :
    uvFull .exactRational (coefficients .exactRational std) uv = (uv.toNat - 512) * 8 / 7 := by
  obtain ⟨_, hoffset, _⟩ := offsets_exact std
  rw [uvFull, hoffset, cgain_exact, num_exact, sub_exact, div_exact]
  ring

theorem aFull_exact (std : Standard) (alpha : Field10) :
    aFull .exactRational (coefficients .exactRational std) alpha = (alpha.toNat - 64) * 85 / 292 := by
  obtain ⟨_, _, hoffset⟩ := offsets_exact std
  rw [aFull, hoffset, alphaScale_exact, num_exact, sub_exact, div_exact]
  ring

section
variable {s : State} (hexact : s.config.arith = .exactRational)
include hexact

theorem exec_invY_exact (y : Field10) :
    exec (.invY y) s = .next (s.withResult (.rational ((y.toNat - 64) * 64 / 219))) := by
  rw [exec_invY, hexact, yFull_exact]

theorem exec_invUv_exact (uv : Field10) :
    exec (.invUv uv) s = .next (s.withResult (.rational ((uv.toNat - 512) * 8 / 7))) := by
  rw [exec_invUv, hexact, uvFull_exact]

theorem exec_invA_exact (alpha : Field10) :
    exec (.invA alpha) s = .next (s.withResult (.rational ((alpha.toNat - 64) * 85 / 292))) := by
  rw [exec_invA, hexact, aFull_exact]

end

/-- Settles O20: one equation for each value; neither profile is asked for. -/
theorem descaledValuesAreExact : Obligations.DescaledValuesAreExact :=
  fun _ v hexact => ⟨exec_invY_exact hexact v, exec_invUv_exact hexact v, exec_invA_exact hexact v⟩

/-! ### A channel and its real value -/

/-- A channel holds the rounded value itself: clamping leaves a value that fits 8 bits (R164, R165). -/
theorem toNat_toChannel (tie : RoundTie) (x : Q) :
    ((toChannel tie x).toNat : Int) = roundNearest tie (clamp x 0 255) := by
  obtain ⟨hround_lo, hround_hi⟩ := roundNearest_bounds tie (clamp x 0 255)
  have hclamp_lo := le_clamp x 0 255 (by norm_num)
  have hclamp_hi := clamp_le x 0 255 (by norm_num)
  generalize hz : roundNearest tie (clamp x 0 255) = z at *
  have hlo : (-1 : Q) < z := by linarith
  have hhi : (z : Q) < 256 := by linarith
  have hz_lo : -1 < z := by exact_mod_cast hlo
  have hz_hi : z < 256 := by exact_mod_cast hhi
  rw [toChannel, hz, BitVec.toNat_ofInt]
  omega

/-- Every channel is the rounded, clamped value it is made from (R12, R164). -/
theorem roundsTo_toChannel (tie : RoundTie) (x : Q) : roundsTo tie (toChannel tie x) x := by
  have hvalue : ((toChannel tie x).toNat : Q) = roundNearest tie (clamp x 0 255) := by
    exact_mod_cast toNat_toChannel tie x
  obtain ⟨hlo, hhi⟩ := roundNearest_bounds tie (clamp x 0 255)
  refine ⟨hvalue ▸ hlo, hvalue ▸ hhi, ?halfUp⟩
  rintro rfl
  have hfloor := lt_floor_add_one (clamp x 0 255 + 1 / 2)
  rw [hvalue, roundNearest_halfUp]
  linarith

theorem rReal_exact (c : Coefficients) (y cr : Q) : rReal .exactRational c y cr = y + c.oneMinusKr * cr := rfl

theorem gReal_exact (c : Coefficients) (y cb cr : Q) :
    gReal .exactRational c y cb cr = y - c.crToG * cr - c.cbToG * cb := rfl

theorem bReal_exact (c : Coefficients) (y cb : Q) : bReal .exactRational c y cb = y + c.oneMinusKb * cb := rfl

/-- Settles O21: a channel rounds its real value, and the factors of that value are the file's. -/
theorem invRgbRoundsTheClampedValues : Obligations.InvRgbRoundsTheClampedValues := by
  intro s y cb cr
  refine ⟨_, _, _, exec_invRgb y cb cr s, fun hexact hstd => ?bt601, fun hexact hstd => ?bt709⟩
  case bt601 =>
    have hkr : (1 - 299 / 1000 : Q) = 701 / 1000 := by norm_num
    have hkb : (1 - 114 / 1000 : Q) = 443 / 500 := by norm_num
    have hcr : (299 / 1000 * (1 - 299 / 1000) / (587 / 1000) : Q) = 209599 / 587000 := by norm_num
    have hcb : (114 / 1000 * (1 - 114 / 1000) / (587 / 1000) : Q) = 25251 / 146750 := by norm_num
    rw [hexact, hstd, rReal_exact, gReal_exact, bReal_exact, coefficients_exact_bt601, hcr, hcb, hkr, hkb]
    exact ⟨roundsTo_toChannel _ _, roundsTo_toChannel _ _, roundsTo_toChannel _ _⟩
  case bt709 =>
    have hkr : (1 - 2126 / 10000 : Q) = 3937 / 5000 := by norm_num
    have hkb : (1 - 722 / 10000 : Q) = 4639 / 5000 := by norm_num
    have hcr : (2126 / 10000 * (1 - 2126 / 10000) / (7152 / 10000) : Q) = 4185031 / 17880000 := by norm_num
    have hcb : (722 / 10000 * (1 - 722 / 10000) / (7152 / 10000) : Q) = 1674679 / 17880000 := by norm_num
    rw [hexact, hstd, rReal_exact, gReal_exact, bReal_exact, coefficients_exact_bt709, hcr, hcb, hkr, hkb]
    exact ⟨roundsTo_toChannel _ _, roundsTo_toChannel _ _, roundsTo_toChannel _ _⟩

/-! ### The integer-only forms of the inverse direction -/

/-- `RC` rounds and clamps a fraction under the default tie rule (R171). -/
theorem IntegerForm.toChannel_value {f : IntegerForm} (hd : 0 < f.divisor) :
    toChannel .halfUp f.value = rc f.numerator f.divisor := by
  obtain ⟨n, d⟩ := f
  have hd' : (0 : Q) < d := by exact_mod_cast hd
  dsimp only [IntegerForm.value]
  unfold rc toChannel clamp
  rw [roundNearest_halfUp]
  have hneg : (n : Q) / d < 0 ↔ n < 0 := by rw [div_lt_iff₀ hd', zero_mul]; norm_cast
  have hbig : 255 < (n : Q) / d ↔ 255 * (d : Int) < n := by rw [lt_div_iff₀ hd']; norm_cast
  simp only [hneg, hbig]
  split
  · decide +kernel
  · split
    · decide +kernel
    · have hhalf : (n : Q) / d + 1 / 2 = (IntegerForm.mk (2 * n + d) (2 * d)).value := by
        rw [IntegerForm.value]
        push_cast
        field_simp
      rw [hhalf, IntegerForm.floor_value, IntegerForm.quotient, Nat.cast_mul, Nat.cast_ofNat]

/-- The form of the red channel (R171), for `y = Y10 - 64` and `v = Cr10 - 512`. -/
def redForm (std : Standard) (y v : Int) : IntegerForm :=
  match std with
  | .bt601 => ⟨56000 * y + 153519 * v, 191625⟩
  | .bt709 => ⟨280000 * y + 862203 * v, 958125⟩

/-- The form of the green channel (R171), for `u = Cb10 - 512` too. -/
def greenForm (std : Standard) (y v u : Int) : IntegerForm :=
  match std with
  | .bt601 => ⟨32872000 * y - 45902181 * v - 22119876 * u, 112483875⟩
  | .bt709 => ⟨333760000 * y - 305507263 * v - 122251567 * u, 1142085000⟩

/-- The form of the blue channel (R171). -/
def blueForm (std : Standard) (y u : Int) : IntegerForm :=
  match std with
  | .bt601 => ⟨56000 * y + 194034 * u, 191625⟩
  | .bt709 => ⟨280000 * y + 1015941 * u, 958125⟩

/-- The form of the alpha of both profiles (R171), for `t = A10 - 64`. -/
def alphaBackForm (t : Int) : IntegerForm := ⟨85 * t, 292⟩

theorem rReal_eq_value (std : Standard) (y cr : Field10) :
    rReal .exactRational (coefficients .exactRational std) (yFull .exactRational (coefficients .exactRational std) y)
      (uvFull .exactRational (coefficients .exactRational std) cr) =
      (redForm std (y.toNat - 64) (cr.toNat - 512)).value := by
  rw [rReal_exact, yFull_exact, uvFull_exact, IntegerForm.value]
  cases std with
  | bt601 => rw [coefficients_exact_bt601, redForm]; push_cast; ring
  | bt709 => rw [coefficients_exact_bt709, redForm]; push_cast; ring

theorem gReal_eq_value (std : Standard) (y cb cr : Field10) :
    gReal .exactRational (coefficients .exactRational std) (yFull .exactRational (coefficients .exactRational std) y)
      (uvFull .exactRational (coefficients .exactRational std) cb)
      (uvFull .exactRational (coefficients .exactRational std) cr) =
      (greenForm std (y.toNat - 64) (cr.toNat - 512) (cb.toNat - 512)).value := by
  rw [gReal_exact, yFull_exact, uvFull_exact, uvFull_exact, IntegerForm.value]
  cases std with
  | bt601 => rw [coefficients_exact_bt601, greenForm]; push_cast; ring
  | bt709 => rw [coefficients_exact_bt709, greenForm]; push_cast; ring

theorem bReal_eq_value (std : Standard) (y cb : Field10) :
    bReal .exactRational (coefficients .exactRational std) (yFull .exactRational (coefficients .exactRational std) y)
      (uvFull .exactRational (coefficients .exactRational std) cb) =
      (blueForm std (y.toNat - 64) (cb.toNat - 512)).value := by
  rw [bReal_exact, yFull_exact, uvFull_exact, IntegerForm.value]
  cases std with
  | bt601 => rw [coefficients_exact_bt601, blueForm]; push_cast; ring
  | bt709 => rw [coefficients_exact_bt709, blueForm]; push_cast; ring

theorem aFull_eq_value (std : Standard) (alpha : Field10) :
    aFull .exactRational (coefficients .exactRational std) alpha = (alphaBackForm (alpha.toNat - 64)).value := by
  rw [aFull_exact, IntegerForm.value, alphaBackForm]
  push_cast
  ring

/-- `RC` of a form (R171). -/
def IntegerForm.channel (f : IntegerForm) : Byte := rc f.numerator f.divisor

/-- The pixel of four fields by the integer-only forms (R171). -/
def formPixel (std : Standard) (y cb cr alpha : Field10) : Pixel :=
  { r := (redForm std (y.toNat - 64) (cr.toNat - 512)).channel,
    g := (greenForm std (y.toNat - 64) (cr.toNat - 512) (cb.toNat - 512)).channel,
    b := (blueForm std (y.toNat - 64) (cb.toNat - 512)).channel,
    a := (alphaBackForm (alpha.toNat - 64)).channel }

section
variable {k : Config} (hexact : k.arith = .exactRational) (htie : k.roundTie = .halfUp)
include hexact htie

/-- A reconstructed pixel is that of the forms. -/
theorem invPixel_eq_formPixel (std : Standard) (y cb cr alpha : Field10) :
    invPixel k (coefficients k.arith std) (yFull k.arith (coefficients k.arith std) y)
      (uvFull k.arith (coefficients k.arith std) cb) (uvFull k.arith (coefficients k.arith std) cr) alpha =
      formPixel std y cb cr alpha := by
  have hred : 0 < (redForm std (y.toNat - 64) (cr.toNat - 512)).divisor := by
    cases std <;> norm_num [redForm]
  have hgreen : 0 < (greenForm std (y.toNat - 64) (cr.toNat - 512) (cb.toNat - 512)).divisor := by
    cases std <;> norm_num [greenForm]
  have hblue : 0 < (blueForm std (y.toNat - 64) (cb.toNat - 512)).divisor := by
    cases std <;> norm_num [blueForm]
  have halpha : 0 < (alphaBackForm (alpha.toNat - 64)).divisor := by norm_num [alphaBackForm]
  rw [invPixel, hexact, htie, rReal_eq_value, gReal_eq_value, bReal_eq_value, aFull_eq_value,
    IntegerForm.toChannel_value hred, IntegerForm.toChannel_value hgreen, IntegerForm.toChannel_value hblue,
    IntegerForm.toChannel_value halpha]
  rfl

theorem invFirst_eq_formPixel (std : Standard) (w : Word64) :
    invFirst k std w =
      formPixel std (w.extractLsb' 32 10) (w.extractLsb' 42 10) (w.extractLsb' 10 10) (w.extractLsb' 52 10) := by
  rw [invFirst, invPixel_eq_formPixel hexact htie, luma10, chroma10, chroma10, alpha10]
  simp only [extractLsb'_firstWord, extractLsb'_secondWord, Nat.reduceAdd, Nat.reduceLeDiff]

theorem invSecond_eq_formPixel (std : Standard) (w : Word64) :
    invSecond k std w =
      formPixel std (w.extractLsb' 0 10) (w.extractLsb' 42 10) (w.extractLsb' 10 10) (w.extractLsb' 20 10) := by
  rw [invSecond, invPixel_eq_formPixel hexact htie, luma10, chroma10, chroma10, alpha10]
  simp only [extractLsb'_firstWord, extractLsb'_secondWord, Nat.reduceAdd, Nat.reduceLeDiff]

end

/-- Settles O22: both pixels by the forms, at each profile. -/
theorem invPairIsTheIntegerForms : Obligations.InvPairIsTheIntegerForms := by
  intro s w hexact htie
  have hpair := exec_invPair w s
  rw [invFirst_eq_formPixel hexact htie, invSecond_eq_formPixel hexact htie] at hpair
  refine ⟨fun hstd => ?bt601, fun hstd => ?bt709⟩
  case bt601 => rw [hstd] at hpair; exact hpair
  case bt709 => rw [hstd] at hpair; exact hpair

/-! ### What the forward truncation loses -/

/-- `x` is no larger than `v` and falls short of it by no more than `loss`. -/
def FallsShort (loss v x : Q) : Prop := v - loss ≤ x ∧ x ≤ v

/-- De-scaling a truncated field loses no more than one step of the scale. -/
theorem fallsShort_descale {n : Nat} {offset scale loss v : Q} (hscale : 0 < scale) (hloss : loss * scale = 1)
    (hfloor : (n : Int) = (offset + scale * v).floor) : FallsShort loss v ((n - offset) / scale) := by
  have hn : ((offset + scale * v).floor : Q) = n := by exact_mod_cast hfloor.symm
  have hle := floor_le_self (offset + scale * v)
  have hlt := lt_floor_add_one (offset + scale * v)
  rw [hn] at hle hlt
  constructor
  · rw [le_div_iff₀ hscale, sub_mul, hloss]
    linarith
  · rw [div_le_iff₀ hscale]
    linarith

theorem yFull_fwdY_fallsShort (std : Standard) (r g b : Byte) :
    FallsShort (64 / 219) (lumaSum (coefficients .exactRational std) r.toNat g.toNat b.toNat)
      (yFull .exactRational (coefficients .exactRational std) (fwdY .exactRational std r g b)) := by
  obtain ⟨hfloor, _⟩ := fwdY_range std r g b
  rw [yReal_exact] at hfloor
  exact fallsShort_descale (by rw [lumaScale_exact]; norm_num) (by rw [lumaScale_exact]; norm_num) hfloor

/-- The two chroma channels lose alike. -/
theorem uvFull_fallsShort {std : Standard} {x v : Q} (hlo : 288875 / 1000 ≤ x) (hhi : x ≤ 735125 / 1000)
    (hx : x = (coefficients .exactRational std).chromaOffset +
      cgain .exactRational (coefficients .exactRational std) * v) :
    FallsShort (8 / 7) v
      (uvFull .exactRational (coefficients .exactRational std) (toField10 .exactRational x)) := by
  obtain ⟨hfloor, _⟩ := chromaField_range hlo hhi
  rw [hx] at hfloor ⊢
  exact fallsShort_descale (by rw [cgain_exact]; norm_num) (by rw [cgain_exact]; norm_num) hfloor

theorem uvFull_fwdCb_fallsShort (std : Standard) (r g b : Byte) :
    FallsShort (8 / 7) (cbBracket (coefficients .exactRational std) r.toNat g.toNat b.toNat)
      (uvFull .exactRational (coefficients .exactRational std) (fwdCb .exactRational std r g b)) := by
  obtain ⟨hlo, hhi⟩ := cbReal_bounds std r g b
  exact uvFull_fallsShort hlo hhi (cbReal_exact _ r g b)

theorem uvFull_fwdCr_fallsShort (std : Standard) (r g b : Byte) :
    FallsShort (8 / 7) (crBracket (coefficients .exactRational std) r.toNat g.toNat b.toNat)
      (uvFull .exactRational (coefficients .exactRational std) (fwdCr .exactRational std r g b)) := by
  obtain ⟨hlo, hhi⟩ := crReal_bounds std r g b
  exact uvFull_fallsShort hlo hhi (crReal_exact _ r g b)

theorem aFull_fwdA_fallsShort (std : Standard) (alpha : Byte) :
    FallsShort (85 / 292) alpha.toNat
      (aFull .exactRational (coefficients .exactRational std) (fwdA .exactRational std alpha)) := by
  exact fallsShort_descale (by rw [alphaScale_exact]; norm_num) (by rw [alphaScale_exact]; norm_num)
    (toNat_fwdA std alpha)

/-! ### What of a loss reaches a channel -/

/-- A value less than `m + 1/2` below a channel and less than `n + 1/2` above it becomes a channel at most `m` below and
`n` above: a channel's bounds are those of `clamp` (R12, R164). -/
theorem toChannel_near {tie : RoundTie} {v : Byte} {x : Q} {m n : Nat} (hlo : v.toNat - (m + 1 / 2 : Q) < x)
    (hhi : x < v.toNat + (n + 1 / 2 : Q)) :
    v.toNat ≤ (toChannel tie x).toNat + m ∧ (toChannel tie x).toNat ≤ v.toNat + n := by
  obtain ⟨hround_lo, hround_hi, _⟩ := roundsTo_toChannel tie x
  obtain ⟨hv0, hv255⟩ := channel_bounds v
  have hm : (0 : Q) ≤ m := Nat.cast_nonneg m
  have hn : (0 : Q) ≤ n := Nat.cast_nonneg n
  have hclamp : v.toNat - (m + 1 / 2 : Q) < clamp x 0 255 ∧ clamp x 0 255 < v.toNat + (n + 1 / 2 : Q) := by
    unfold clamp
    split
    · constructor <;> linarith
    · split <;> constructor <;> linarith
  have hbelow : (v.toNat : Q) < (toChannel tie x).toNat + m + 1 := by linarith
  have habove : ((toChannel tie x).toNat : Q) < v.toNat + n + 1 := by linarith
  exact ⟨Nat.lt_succ_iff.mp (by exact_mod_cast hbelow), Nat.lt_succ_iff.mp (by exact_mod_cast habove)⟩

/-- Less than a half is lost in rounding. -/
theorem toChannel_eq_of_near {tie : RoundTie} {v : Byte} {x : Q} (hlo : v.toNat - 1 / 2 < x)
    (hhi : x < v.toNat + 1 / 2) : toChannel tie x = v := by
  obtain ⟨hbelow, habove⟩ := toChannel_near (tie := tie) (m := 0) (n := 0) (by simpa using hlo) (by simpa using hhi)
  exact BitVec.eq_of_toNat_eq (by omega)

theorem toChannel_of_fallsShort {tie : RoundTie} {v : Byte} {x : Q} (h : FallsShort (7 / 5) v.toNat x) :
    (toChannel tie x).toNat = v.toNat ∨ (toChannel tie x).toNat + 1 = v.toNat := by
  obtain ⟨hlo, hhi⟩ := h
  have hnear := toChannel_near (tie := tie) (v := v) (x := x) (m := 1) (n := 0) (by push_cast; linarith)
    (by push_cast; linarith)
  omega

theorem toChannel_of_near_or_above {tie : RoundTie} {v : Byte} {x : Q} (hlo : v.toNat - 1 / 2 < x)
    (hhi : x < v.toNat + 3 / 2) : (toChannel tie x).toNat = v.toNat ∨ (toChannel tie x).toNat = v.toNat + 1 := by
  have hnear := toChannel_near (tie := tie) (v := v) (x := x) (m := 0) (n := 1) (by push_cast; linarith)
    (by push_cast; linarith)
  omega

/-! ### The alpha round trip -/

/-- The loss of alpha is less than a half (R169). -/
theorem toChannel_aFull_fwdA (tie : RoundTie) (std : Standard) (alpha : Byte) :
    toChannel tie (aFull .exactRational (coefficients .exactRational std) (fwdA .exactRational std alpha)) = alpha := by
  obtain ⟨hlo, hhi⟩ := aFull_fwdA_fallsShort std alpha
  exact toChannel_eq_of_near (by linarith) (by linarith)

/-- Settles O25 by `toChannel_aFull_fwdA`. -/
theorem alphaRoundTripIsExact : Obligations.AlphaRoundTripIsExact := by
  intro s a hexact
  have hfwd := exec_fwdA a s
  rw [hexact] at hfwd
  have hinv := exec_invA (fwdA .exactRational s.std a) s
  rw [hexact] at hinv
  exact ⟨_, _, hfwd, hinv, fun tie => toChannel_aFull_fwdA tie s.std a⟩

/-! ### The colour round trip -/

/-- Bounds on the inverse weights of R115 that keep every loss below a rounding step. -/
structure SmallInverseWeights (c : Coefficients) : Prop where
  oneMinusKr_nonneg : 0 ≤ c.oneMinusKr
  oneMinusKb_nonneg : 0 ≤ c.oneMinusKb
  crToG_nonneg : 0 ≤ c.crToG
  cbToG_nonneg : 0 ≤ c.cbToG
  oneMinusKr_le : c.oneMinusKr ≤ 93 / 100
  oneMinusKb_le : c.oneMinusKb ≤ 93 / 100
  toG_le : c.crToG + c.cbToG ≤ 3 / 5

theorem coefficients_smallInverseWeights (std : Standard) : SmallInverseWeights (coefficients .exactRational std) := by
  cases std with
  | bt601 => rw [coefficients_exact_bt601]; constructor <;> norm_num
  | bt709 => rw [coefficients_exact_bt709]; constructor <;> norm_num

/-- Under BT.709 less of the chroma loss reaches green. -/
theorem toG_le_bt709 :
    (coefficients .exactRational .bt709).crToG + (coefficients .exactRational .bt709).cbToG ≤ 7 / 20 := by
  rw [coefficients_exact_bt709]
  norm_num

/-- A loss counts by its weight. -/
theorem FallsShort.mul_left {loss v x w : Q} (hw : 0 ≤ w) (h : FallsShort loss v x) :
    FallsShort (w * loss) (w * v) (w * x) := by
  obtain ⟨hlo, hhi⟩ := h
  refine ⟨?_, mul_le_mul_of_nonneg_left hhi hw⟩
  rw [← mul_sub]
  exact mul_le_mul_of_nonneg_left hlo hw

section
variable {c : Coefficients} (hc : ExactlyDerived c) (hw : SmallInverseWeights c) {r g b y cb cr : Q}
  (hy : FallsShort (64 / 219) (lumaSum c r g b) y)
include hc hw hy

/-- What luma and Cr lose adds up in red; the identities of R117 give what they are short of. -/
theorem rReal_fallsShort (hcr : FallsShort (8 / 7) (crBracket c r g b) cr) :
    FallsShort (7 / 5) r (rReal .exactRational c y cr) := by
  have hr := rReal_of_unquantised hc r g b
  obtain ⟨hy_lo, hy_hi⟩ := hy
  obtain ⟨hcr_lo, hcr_hi⟩ := hcr.mul_left hw.oneMinusKr_nonneg
  have hweight := hw.oneMinusKr_le
  rw [rReal_exact] at hr ⊢
  constructor <;> linarith

theorem bReal_fallsShort (hcb : FallsShort (8 / 7) (cbBracket c r g b) cb) :
    FallsShort (7 / 5) b (bReal .exactRational c y cb) := by
  have hb := bReal_of_unquantised hc r g b
  obtain ⟨hy_lo, hy_hi⟩ := hy
  obtain ⟨hcb_lo, hcb_hi⟩ := hcb.mul_left hw.oneMinusKb_nonneg
  have hweight := hw.oneMinusKb_le
  rw [bReal_exact] at hb ⊢
  constructor <;> linarith

/-- Green loses what luma loses and gains what is subtracted too little for chroma. -/
theorem gReal_bounds (hcb : FallsShort (8 / 7) (cbBracket c r g b) cb)
    (hcr : FallsShort (8 / 7) (crBracket c r g b) cr) :
    g - 2 / 5 ≤ gReal .exactRational c y cb cr ∧
      gReal .exactRational c y cb cr ≤ g + (c.crToG + c.cbToG) * (8 / 7) := by
  have hg := gReal_of_unquantised hc r g b
  obtain ⟨hy_lo, hy_hi⟩ := hy
  obtain ⟨hcb_lo, hcb_hi⟩ := hcb.mul_left hw.cbToG_nonneg
  obtain ⟨hcr_lo, hcr_hi⟩ := hcr.mul_left hw.crToG_nonneg
  rw [gReal_exact] at hg ⊢
  constructor <;> linarith

end

/-- INV.PAIR reads the fields that FWD.PAIR packed (R136, R167). -/
theorem invFirst_fwdPair (k : Config) (std : Standard) (p1 p2 : Pixel) :
    invFirst k std (fwdPair k.arith std p1 p2) =
      invPixel k (coefficients k.arith std)
        (yFull k.arith (coefficients k.arith std) (fwdY k.arith std p1.r p1.g p1.b))
        (uvFull k.arith (coefficients k.arith std) (fwdCb k.arith std p1.r p1.g p1.b))
        (uvFull k.arith (coefficients k.arith std) (fwdCr k.arith std p1.r p1.g p1.b))
        (fwdA k.arith std p1.a) := by
  simp only [invFirst, fwdPair, firstWord_joinWords, secondWord_joinWords, luma10_packWord, chroma10_packWord,
    alpha10_packWord]

theorem invSecond_fwdPair (k : Config) (std : Standard) (p1 p2 : Pixel) :
    invSecond k std (fwdPair k.arith std p1 p2) =
      invPixel k (coefficients k.arith std)
        (yFull k.arith (coefficients k.arith std) (fwdY k.arith std p2.r p2.g p2.b))
        (uvFull k.arith (coefficients k.arith std) (fwdCb k.arith std p1.r p1.g p1.b))
        (uvFull k.arith (coefficients k.arith std) (fwdCr k.arith std p1.r p1.g p1.b))
        (fwdA k.arith std p2.a) := by
  simp only [invSecond, fwdPair, firstWord_joinWords, secondWord_joinWords, luma10_packWord, chroma10_packWord,
    alpha10_packWord]

section
variable {k : Config} (std : Standard) (p1 p2 : Pixel)

section
variable (hexact : k.arith = .exactRational)
include hexact

theorem invFirst_fwdPair_r :
    (invFirst k std (fwdPair k.arith std p1 p2)).r.toNat = p1.r.toNat ∨
      (invFirst k std (fwdPair k.arith std p1 p2)).r.toNat + 1 = p1.r.toNat := by
  rw [invFirst_fwdPair, invPixel, hexact]
  exact toChannel_of_fallsShort (rReal_fallsShort (coefficients_exactlyDerived std)
    (coefficients_smallInverseWeights std) (yFull_fwdY_fallsShort std p1.r p1.g p1.b)
    (uvFull_fwdCr_fallsShort std p1.r p1.g p1.b))

theorem invFirst_fwdPair_b :
    (invFirst k std (fwdPair k.arith std p1 p2)).b.toNat = p1.b.toNat ∨
      (invFirst k std (fwdPair k.arith std p1 p2)).b.toNat + 1 = p1.b.toNat := by
  rw [invFirst_fwdPair, invPixel, hexact]
  exact toChannel_of_fallsShort (bReal_fallsShort (coefficients_exactlyDerived std)
    (coefficients_smallInverseWeights std) (yFull_fwdY_fallsShort std p1.r p1.g p1.b)
    (uvFull_fwdCb_fallsShort std p1.r p1.g p1.b))

theorem invFirst_fwdPair_g :
    (invFirst k std (fwdPair k.arith std p1 p2)).g.toNat = p1.g.toNat ∨
      (invFirst k std (fwdPair k.arith std p1 p2)).g.toNat = p1.g.toNat + 1 := by
  have hweights := coefficients_smallInverseWeights std
  have hsum := hweights.toG_le
  obtain ⟨hlo, hhi⟩ := gReal_bounds (coefficients_exactlyDerived std) hweights
    (yFull_fwdY_fallsShort std p1.r p1.g p1.b) (uvFull_fwdCb_fallsShort std p1.r p1.g p1.b)
    (uvFull_fwdCr_fallsShort std p1.r p1.g p1.b)
  rw [invFirst_fwdPair, invPixel, hexact]
  exact toChannel_of_near_or_above (by linarith) (by linarith)

theorem invFirst_fwdPair_g_bt709 : (invFirst k .bt709 (fwdPair k.arith .bt709 p1 p2)).g = p1.g := by
  have hsum := toG_le_bt709
  obtain ⟨hlo, hhi⟩ := gReal_bounds (coefficients_exactlyDerived .bt709) (coefficients_smallInverseWeights .bt709)
    (yFull_fwdY_fallsShort .bt709 p1.r p1.g p1.b) (uvFull_fwdCb_fallsShort .bt709 p1.r p1.g p1.b)
    (uvFull_fwdCr_fallsShort .bt709 p1.r p1.g p1.b)
  rw [invFirst_fwdPair, invPixel, hexact]
  exact toChannel_eq_of_near (by linarith) (by linarith)

theorem invFirst_fwdPair_a : (invFirst k std (fwdPair k.arith std p1 p2)).a = p1.a := by
  rw [invFirst_fwdPair, invPixel, hexact]
  exact toChannel_aFull_fwdA k.roundTie std p1.a

theorem invSecond_fwdPair_a : (invSecond k std (fwdPair k.arith std p1 p2)).a = p2.a := by
  rw [invSecond_fwdPair, invPixel, hexact]
  exact toChannel_aFull_fwdA k.roundTie std p2.a

end

/-- The second pixel shares the first one's chroma, so equal colours come back equal, in any number system. -/
theorem invSecond_fwdPair_colour (hr : p2.r = p1.r) (hg : p2.g = p1.g) (hb : p2.b = p1.b) :
    (invSecond k std (fwdPair k.arith std p1 p2)).r = (invFirst k std (fwdPair k.arith std p1 p2)).r ∧
      (invSecond k std (fwdPair k.arith std p1 p2)).g = (invFirst k std (fwdPair k.arith std p1 p2)).g ∧
      (invSecond k std (fwdPair k.arith std p1 p2)).b = (invFirst k std (fwdPair k.arith std p1 p2)).b := by
  rw [invFirst_fwdPair, invSecond_fwdPair, hr, hg, hb]
  exact ⟨rfl, rfl, rfl⟩

end

/-- Settles O26, one lemma for each channel. -/
theorem colourRoundTripLosesAtMostOne : Obligations.ColourRoundTripLosesAtMostOne := by
  intro s p1 p2 hexact
  have hgreen709 : s.std = .bt709 →
      (invFirst s.config s.std (fwdPair s.config.arith s.std p1 p2)).g = p1.g := by
    intro hstd
    rw [hstd]
    exact invFirst_fwdPair_g_bt709 p1 p2 hexact
  exact ⟨_, _, _, exec_fwdPair p1 p2 s, exec_invPair _ s, invFirst_fwdPair_r s.std p1 p2 hexact,
    invFirst_fwdPair_g s.std p1 p2 hexact, invFirst_fwdPair_b s.std p1 p2 hexact, hgreen709,
    invFirst_fwdPair_a s.std p1 p2 hexact, invSecond_fwdPair_a s.std p1 p2 hexact,
    invSecond_fwdPair_colour s.std p1 p2⟩

end Sys2Proof.Machine

/-! ## RunLengthEncoder

The operations of the encoder as equations (R190 to R193, R199), in terms of `pendingBytes`, the bytes of the flush
table. -/

namespace Sys2Proof.Machine

/-! ### The flush table -/

/-- The flush table of R192 as RLE.FLUSH's rows have it: up to three words, or MARKER, the count and the word. -/
theorem pendingBytes_eq_flushTable (s : State) :
    pendingBytes s =
      if s.encMc.toNat ≤ 3 then (List.replicate s.encMc.toNat (be64Bytes s.encLw)).flatten
      else be64Bytes marker ++ be64Bytes s.encMc ++ be64Bytes s.encLw := by
  rw [pendingBytes_eq, flushWords]
  split
  · rw [List.flatMap_def, List.map_replicate]
  · simp

theorem pendingBytes_of_noRun {s : State} (hmc : s.encMc = 0) : pendingBytes s = [] := by
  rw [pendingBytes, hmc]
  rfl

/-- The pending run fits COMP, or there is none. -/
def State.roomForPending (s : State) : Prop :=
  s.encMc ≠ 0 → s.encWc.toNat + (pendingBytes s).length ≤ s.comp.len.toNat

/-- The state a flush leaves behind (R192). -/
def State.flushed (s : State) : State :=
  (s.withComp (s.comp.withMem (writeBytes s.comp.mem s.encWc.toNat (pendingBytes s)))).withEncoder
    s.encLw s.encMc (s.encWc + BitVec.ofNat 64 (pendingBytes s).length)

/-- With no run pending a flush changes nothing (R192). -/
theorem flushed_of_noRun {s : State} (hmc : s.encMc = 0) : s.flushed = s := by
  rw [State.flushed, pendingBytes_of_noRun hmc, List.length_nil, BitVec.add_zero]
  rfl

section
variable {s : State}

theorem rleFlush_of_room (hroom : s.roomForPending) : rleFlush s = .ok s.flushed := by
  rw [rleFlush_eq]
  by_cases hmc : s.encMc = 0
  · rw [if_pos (.inr hmc), State.flushed]
  · rw [if_pos (.inl (hroom hmc)), State.flushed]

theorem rleFlush_of_noRoom (hmc : s.encMc ≠ 0)
    (hfull : s.comp.len.toNat < s.encWc.toNat + (pendingBytes s).length) :
    rleFlush s = .error (.outsideBuffer .comp) := by
  rw [rleFlush_eq, if_neg]
  rintro (hfits | hnone)
  · omega
  · exact hmc hnone

/-! ### The operations -/

/-- RLE.INIT; the model leaves ENC.LW as it is (R190). -/
theorem exec_rleInit (s : State) :
    exec .rleInit s = .next (((s.withEncoder s.encLw 0 0).withEncFinished false).withResult .noResult) := rfl

theorem exec_rleFlush_eq (s : State) :
    exec .rleFlush s = outcomeOf ((rleFlush s).map (fun t => t.withResult .noResult)) := by
  show execRleFlush s = _
  unfold execRleFlush
  cases rleFlush s <;> rfl

/-- RLE.PUSH in a stream that has not been ended (R191, R321). -/
theorem exec_rlePush_eq (word : Word64) (hf : s.encFinished = false) :
    exec (.rlePush word) s = outcomeOf ((rlePush word s).map (fun t => t.withResult .noResult)) := by
  show execRlePush word s = _
  rw [execRlePush, hf, if_neg Bool.false_ne_true]
  cases rlePush word s <;> rfl

theorem exec_rleFinish_eq (s : State) :
    exec .rleFinish s = outcomeOf ((rleFinish s).map (fun t => t.withResult (.byteCount t.encWc))) := by
  show execRleFinish s = _
  unfold execRleFinish
  cases rleFinish s <;> rfl

theorem exec_rleFlush_of_room (hroom : s.roomForPending) :
    exec .rleFlush s = .next (s.flushed.withResult .noResult) := by
  rw [exec_rleFlush_eq, rleFlush_of_room hroom]
  rfl

/-- With no run pending a word starts one, without a look at ENC.LW (R191). -/
theorem rlePush_start (word : Word64) (hmc : s.encMc = 0) : rlePush word s = .ok (s.withEncoder word 1 s.encWc) := by
  rw [rlePush_eq, if_pos hmc]

/-- A repeat of the pending word is counted (R191). -/
theorem rlePush_repeat (hmc : s.encMc ≠ 0) :
    rlePush s.encLw s = .ok (s.withEncoder s.encLw (s.encMc + 1) s.encWc) := by
  rw [rlePush_eq, if_neg hmc, if_pos rfl]

/-- Any other word flushes the pending run and starts its own (R191). -/
theorem rlePush_change {word : Word64} (hmc : s.encMc ≠ 0) (hne : word ≠ s.encLw) :
    rlePush word s = (rleFlush s).map (fun t => t.withEncoder word 1 t.encWc) := by
  rw [rlePush_eq, if_neg hmc, if_neg hne]

/-- The state RLE.FINISH leaves behind (R193). -/
def State.finished (s : State) : State :=
  ((s.flushed.withEncoder s.encLw 0 s.flushed.encWc).withEncFinished true).withResult (.byteCount s.flushed.encWc)

theorem exec_rleFinish_of_room (hroom : s.roomForPending) : exec .rleFinish s = .next s.finished := by
  rw [exec_rleFinish_eq, rleFinish_eq, rleFlush_of_room hroom]
  rfl

/-- After RLE.FINISH no run is pending, so a second one writes nothing and answers the same (R193). -/
theorem finished_finished (s : State) : s.finished.finished = s.finished := by
  have hflushed : s.finished.flushed = s.finished := flushed_of_noRun rfl
  rw [State.finished, hflushed]
  rfl

theorem roomForPending_finished (s : State) : s.finished.roomForPending := fun hmc => absurd rfl hmc

end

/-! ### The statements about single operations -/

/-- Settles O27: ENC.LW keeps its value in the model. -/
theorem rleInitClearsTheEncoder : Obligations.RleInitClearsTheEncoder := fun s => ⟨_, _, _, exec_rleInit s⟩

/-- Settles O28: one write of `pendingBytes`. -/
theorem flushWritesThePendingRun : Obligations.FlushWritesThePendingRun := by
  intro s hwf bytes
  have htable : pendingBytes s = bytes := pendingBytes_eq_flushTable s
  clear_value bytes
  subst htable
  intro hroom
  exact ⟨pendingBytes_length_eq s, _, _, exec_rleFlush_of_room hroom,
    readBytes_writeBytes_same hwf _ _, fun a ha => readByte_writeBytes_other hwf ha⟩

/-- Settles O29, one equation of `rlePush` for each case. -/
theorem pushCountsOrFlushes : Obligations.PushCountsOrFlushes := by
  intro s word hf
  refine ⟨fun hmc => ?start, fun hmc hword _ => ?counted, fun hmc hword hwf => ?change⟩
  case start =>
    rw [exec_rlePush_eq word hf, rlePush_start word hmc]
    exact ⟨_, rfl⟩
  case counted =>
    subst hword
    exact ⟨_, exec_rlePush_repeat hf hmc⟩
  case change =>
    intro bytes
    have htable : pendingBytes s = bytes := pendingBytes_eq_flushTable s
    clear_value bytes
    subst htable
    intro hroom
    rw [exec_rlePush_eq word hf, rlePush_change hmc hword, rleFlush_of_room (fun _ => hroom)]
    exact ⟨_, _, rfl, readBytes_writeBytes_same hwf _ _, fun a ha => readByte_writeBytes_other hwf ha⟩

/-- Settles O31: `State.finished`, which is a fixed point. -/
theorem finishFlushesAndAnswersTheLength : Obligations.FinishFlushesAndAnswersTheLength := by
  intro s hwf bytes
  have htable : pendingBytes s = bytes := pendingBytes_eq_flushTable s
  clear_value bytes
  subst htable
  intro total hroom
  have hsecond : exec .rleFinish s.finished = .next s.finished := by
    rw [exec_rleFinish_of_room (roomForPending_finished s), finished_finished]
  exact ⟨_, _, exec_rleFinish_of_room hroom, readBytes_writeBytes_same hwf _ _,
    fun a ha => readByte_writeBytes_other hwf ha, hsecond⟩

/-- Settles O33: the three operations refuse because the flush does. -/
theorem flushPastTheEndIsRefused : Obligations.FlushPastTheEndIsRefused := by
  intro s hmc hfull
  rw [← pendingBytes_length_eq] at hfull
  have hflush := rleFlush_of_noRoom hmc hfull
  refine ⟨?flush, ?finish, fun word hf hword => ?push⟩
  case flush => rw [exec_rleFlush_eq, hflush]; rfl
  case finish => rw [exec_rleFinish_eq, rleFinish_eq, hflush]; rfl
  case push => rw [exec_rlePush_eq word hf, rlePush_change hmc hword, hflush]; rfl

end Sys2Proof.Machine

/-! ## The stream of a word sequence

What `runsOf` cuts (R194), how the stream of a sequence grows with it, and how long it is (R195). -/

namespace Sys2Proof.Machine

/-! ### Maximal runs -/

/-- The runs of a sequence, one after the other, are the sequence. -/
theorem runsOf_concat (words : List Word64) :
    (runsOf words).flatMap (fun run => List.replicate run.2 run.1) = words := by
  induction words with
  | nil => rfl
  | cons w ws ih =>
    rw [runsOf]
    split
    next hnil => rw [← ih, hnil]; rfl
    next v n rest hruns =>
      rw [hruns] at ih
      split
      next hwv => rw [← ih, hwv]; rfl
      next => rw [← ih]; rfl

theorem sum_runLengths (words : List Word64) : ((runsOf words).map Prod.snd).sum = words.length := by
  conv => rhs; rw [← runsOf_concat words]
  simp [List.length_flatMap]

/-- No run is empty. -/
theorem one_le_of_mem_runsOf {words : List Word64} : ∀ run ∈ runsOf words, 1 ≤ run.2 := by
  induction words with
  | nil => simp [runsOf]
  | cons w ws ih =>
    rw [runsOf]
    split
    next => simp
    next v n rest hruns =>
      rw [hruns, List.forall_mem_cons] at ih
      split
      next => exact List.forall_mem_cons.mpr ⟨Nat.le_add_left 1 n, ih.2⟩
      next => exact List.forall_mem_cons.mpr ⟨Nat.le_refl 1, List.forall_mem_cons.mpr ih⟩

/-- Runs are maximal: neighbours differ in value. -/
theorem runsOf_isChain (words : List Word64) : (runsOf words).IsChain (fun a b => a.1 ≠ b.1) := by
  induction words with
  | nil => exact .nil
  | cons w ws ih =>
    rw [runsOf]
    split
    next => exact .singleton _
    next v n rest hruns =>
      rw [hruns] at ih
      split
      next =>
        -- the chain looks at values only, and the first run keeps its value
        cases rest with
        | nil => exact .singleton _
        | cons run rest => exact List.isChain_cons_cons.mpr (List.isChain_cons_cons.mp ih)
      next hwv => exact List.isChain_cons_cons.mpr ⟨hwv, ih⟩

/-- The first run is one of the first word. -/
theorem head_runsOf (words : List Word64) : (runsOf words).head?.map Prod.fst = words.head? := by
  cases words with
  | nil => rfl
  | cons w ws =>
    rw [runsOf]
    split
    next => rfl
    next => split <;> simp [*]

theorem runsOf_cons_of_ne {w : Word64} {ws : List Word64} (hw : w ∉ ws.head?) :
    runsOf (w :: ws) = (w, 1) :: runsOf ws := by
  rw [runsOf]
  split
  next hnil => rw [hnil]
  next v n rest hruns =>
    rw [← head_runsOf, hruns] at hw
    rw [hruns, if_neg (fun h => hw (by simp [h]))]

/-- Where two sequences meet in different words, no run crosses over. -/
theorem runsOf_append {xs ys : List Word64} (h : ∀ v ∈ xs.getLast?, v ∉ ys.head?) :
    runsOf (xs ++ ys) = runsOf xs ++ runsOf ys := by
  induction xs with
  | nil => rfl
  | cons x xs ih =>
    cases xs with
    | nil => exact runsOf_cons_of_ne (h x rfl)
    | cons y xs =>
      have htail := ih (by simpa using h)
      have hne : runsOf (y :: xs) ≠ [] := fun hnil => by simpa [hnil] using head_runsOf (y :: xs)
      obtain ⟨⟨v, n⟩, rest, hruns⟩ := List.exists_cons_of_ne_nil hne
      rw [List.cons_append, runsOf, htail, hruns, runsOf, hruns]
      dsimp only [List.cons_append]
      split <;> rfl

theorem length_le_of_mem_runsOf {words : List Word64} {run : Word64 × Nat} (h : run ∈ runsOf words) :
    run.2 ≤ words.length := by
  have hsum : run.2 ≤ ((runsOf words).map Prod.snd).sum := List.le_sum_of_mem (List.mem_map_of_mem h)
  rwa [sum_runLengths] at hsum

theorem runsOf_replicate (v : Word64) (n : Nat) : runsOf (List.replicate (n + 1) v) = [(v, n + 1)] := by
  induction n with
  | zero => rfl
  | succ n ih => rw [List.replicate_succ, runsOf, ih]; exact if_pos rfl

theorem mem_of_mem_runsOf {words : List Word64} {run : Word64 × Nat} (h : run ∈ runsOf words) : run.1 ∈ words := by
  rw [← runsOf_concat words]
  exact List.mem_flatMap.mpr ⟨run, h, List.mem_replicate.mpr
    ⟨Nat.ne_of_gt (one_le_of_mem_runsOf run h), rfl⟩⟩

/-! ### The stream -/

theorem streamOf_append {xs ys : List Word64} (h : ∀ v ∈ xs.getLast?, v ∉ ys.head?) :
    streamOf (xs ++ ys) = streamOf xs ++ streamOf ys := by
  rw [streamOf, runsOf_append h, List.flatMap_append]
  rfl

/-- The stream of one run, the empty one included, is its records. -/
theorem streamOf_replicate (v : Word64) (n : Nat) :
    streamOf (List.replicate n v) = recordsBytes (runRecords v n) := by
  cases n with
  | zero => rfl
  | succ n => rw [streamOf, runsOf_replicate, List.flatMap_singleton]

/-! ### Its length -/

/-- What a run costs in the stream: 8 bytes a word up to three, then 24 (R195). -/
def runCost (n : Nat) : Nat := if n ≤ 3 then 8 * n else 24

theorem runCost_le (n : Nat) : runCost n ≤ 8 * n := by
  unfold runCost
  split <;> omega

theorem runCost_eq_iff (n : Nat) : runCost n = 8 * n ↔ n ≤ 3 := by
  unfold runCost
  split <;> omega

theorem runCost_mod (n : Nat) : runCost n % 8 = 0 := by
  unfold runCost
  split <;> omega

theorem recordsBytes_runRecords_length (v : Word64) (n : Nat) : (recordsBytes (runRecords v n)).length = runCost n := by
  unfold runRecords runCost
  split
  · rw [recordsBytes_literals]
    simp [List.length_flatMap, Nat.mul_comm]
  · rfl

theorem streamOf_length (words : List Word64) :
    (streamOf words).length = ((runsOf words).map (fun run => runCost run.2)).sum := by
  simp only [streamOf, List.length_flatMap, recordsBytes_runRecords_length]

theorem sum_runCost_mod (runs : List (Word64 × Nat)) : (runs.map (fun run => runCost run.2)).sum % 8 = 0 := by
  induction runs with
  | nil => rfl
  | cons run runs ih =>
    have hrun := runCost_mod run.2
    rw [List.map_cons, List.sum_cons]
    omega

/-- Runs cost at most 8 bytes a word, and less as soon as one is longer than three. -/
theorem sum_runCost_le (runs : List (Word64 × Nat)) :
    (runs.map (fun run => runCost run.2)).sum ≤ 8 * (runs.map Prod.snd).sum ∧
      ((runs.map (fun run => runCost run.2)).sum = 8 * (runs.map Prod.snd).sum ↔ ∀ run ∈ runs, run.2 ≤ 3) := by
  induction runs with
  | nil => simp
  | cons run runs ih =>
    obtain ⟨hle, hiff⟩ := ih
    have hrun := runCost_le run.2
    rw [List.map_cons, List.sum_cons, List.map_cons, List.sum_cons, List.forall_mem_cons, ← hiff, ← runCost_eq_iff]
    omega

/-- The stream takes at most 8 bytes a word (R195). -/
theorem streamOf_length_le (words : List Word64) : (streamOf words).length ≤ 8 * words.length := by
  rw [streamOf_length, ← sum_runLengths]
  exact (sum_runCost_le _).1

theorem streamOf_length_eq_iff (words : List Word64) :
    (streamOf words).length = 8 * words.length ↔ ∀ run ∈ runsOf words, run.2 ≤ 3 := by
  rw [streamOf_length, ← sum_runLengths]
  exact (sum_runCost_le _).2

end Sys2Proof.Machine

/-! ## The encoder between RLE.INIT and RLE.FINISH

The invariant of the encoder: the words pushed are the words of closed runs, whose stream stands in COMP, and the
pending run. A push keeps it, and a flush completes the stream. It looks at COMP and the encoder's registers only. -/

namespace Sys2Proof.Machine

/-- The occurrences that the encoder still counts. -/
def State.pendingWords (s : State) : List Word64 := List.replicate s.encMc.toNat s.encLw

/-- The encoder, started on a COMP that held `m`, has taken `words`: the stream of a part of them stands in COMP up to
ENC.WC, the others are the pending run, and that run does not continue the part. -/
def State.encodes (s : State) (m : Memory) (words : List Word64) : Prop :=
  ∃ closed, words = closed ++ s.pendingWords ∧ s.comp.mem = writeBytes m 0 (streamOf closed) ∧
    s.encWc.toNat = (streamOf closed).length ∧ s.encLw ∉ closed.getLast? ∧ (s.encMc = 0 → closed = [])

section
variable {s : State} {m : Memory} {words : List Word64}

theorem pendingWords_of_noRun (hmc : s.encMc = 0) : s.pendingWords = [] := by
  rw [State.pendingWords, hmc]
  rfl

theorem head_pendingWords {v : Word64} (hv : v ∈ s.pendingWords.head?) : v = s.encLw :=
  (List.mem_replicate.mp (List.mem_of_mem_head? hv)).2

theorem getLast_append_pendingWords (hmc : s.encMc ≠ 0) (closed : List Word64) :
    (closed ++ s.pendingWords).getLast? = some s.encLw := by
  have hn : s.encMc.toNat ≠ 0 := fun h => hmc (BitVec.eq_of_toNat_eq h)
  simp [State.pendingWords, List.getLast?_append, List.getLast?_replicate, hn]

/-- Right after RLE.INIT no word has been taken. -/
theorem encodes_nil (hmc : s.encMc = 0) (hwc : s.encWc = 0) : s.encodes s.comp.mem [] :=
  ⟨[], by rw [pendingWords_of_noRun hmc]; rfl, rfl, by rw [hwc]; rfl, by simp, fun _ => rfl⟩

/-- A flush completes the stream of the words taken (R192, R194). -/
theorem rleFlush_encodes (h : s.encodes m words) (hroom : 8 * words.length ≤ s.comp.len.toNat) :
    rleFlush s = .ok ((s.withComp (s.comp.withMem (writeBytes m 0 (streamOf words)))).withEncoder s.encLw s.encMc
      (BitVec.ofNat 64 (streamOf words).length)) := by
  obtain ⟨closed, rfl, hmem, hwc, hlast, -⟩ := h
  have hstream : streamOf (closed ++ s.pendingWords) = streamOf closed ++ pendingBytes s := by
    rw [streamOf_append (fun v hv hp => hlast (head_pendingWords hp ▸ hv)), State.pendingWords, streamOf_replicate]
    rfl
  have hlen := streamOf_length_le (closed ++ s.pendingWords)
  have hcat : (streamOf (closed ++ s.pendingWords)).length = (streamOf closed).length + (pendingBytes s).length := by
    rw [hstream, List.length_append]
  have hwrite : writeBytes s.comp.mem s.encWc.toNat (pendingBytes s) =
      writeBytes m 0 (streamOf (closed ++ s.pendingWords)) := by
    have happend := writeBytes_append m 0 (streamOf closed) (pendingBytes s)
    rwa [Nat.zero_add, ← hmem, ← hwc, ← hstream] at happend
  have hcursor : s.encWc + BitVec.ofNat 64 (pendingBytes s).length =
      BitVec.ofNat 64 (streamOf (closed ++ s.pendingWords)).length := by
    rw [hcat, ← hwc, BitVec.ofNat_add, BitVec.ofNat_toNat, BitVec.setWidth_eq]
  rw [rleFlush_of_room (fun _ => by omega), State.flushed, hwrite, hcursor]

/-- A push appends its word, as long as COMP has 8 bytes for each word (R191, R194). -/
theorem rlePush_encodes (word : Word64) (h : s.encodes m words)
    (hroom : 8 * (words.length + 1) ≤ s.comp.len.toNat) :
    ∃ t, rlePush word s = .ok t ∧ t.encodes m (words ++ [word]) := by
  have hmax := s.comp.len.isLt
  by_cases hmc : s.encMc = 0
  case pos =>
    obtain ⟨closed, rfl, hmem, hwc, -, hnone⟩ := h
    obtain rfl := hnone hmc
    refine ⟨_, rlePush_start word hmc, [], ?_, hmem, hwc, by simp, fun _ => rfl⟩
    rw [pendingWords_of_noRun hmc]
    rfl
  case neg =>
    by_cases hword : word = s.encLw
    case pos =>
      subst hword
      obtain ⟨closed, rfl, hmem, hwc, hlast, hnone⟩ := h
      have hcount : (s.encMc + 1).toNat = s.encMc.toNat + 1 := by
        have hle : s.encMc.toNat ≤ (closed ++ s.pendingWords).length := by simp [State.pendingWords]
        rw [BitVec.toNat_add, show (1 : Count).toNat = 1 from rfl]
        omega
      refine ⟨_, rlePush_repeat hmc, closed, ?_, hmem, hwc, hlast, fun h0 => ?_⟩
      · simp only [State.pendingWords, State.withEncoder_encMc, State.withEncoder_encLw, hcount, List.replicate_succ',
          List.append_assoc]
      · have hzero : (s.encMc + 1).toNat = 0 := congrArg BitVec.toNat h0
        omega
    case neg =>
      have hflush := rleFlush_encodes h (by omega)
      have hlen := streamOf_length_le words
      refine ⟨_, by rw [rlePush_change hmc hword, hflush]; rfl, words, rfl, rfl, ?_, ?_,
        fun h0 => absurd h0 (by decide : (1 : Count) ≠ 0)⟩
      · exact (BitVec.toNat_ofNat _ _).trans (Nat.mod_eq_of_lt (by omega))
      · obtain ⟨closed, rfl, -⟩ := h
        rw [getLast_append_pendingWords hmc]
        simpa using Ne.symm hword

/-- RLE.FINISH leaves the stream of the words taken (R193, R194). -/
theorem rleFinish_encodes (h : s.encodes m words) (hroom : 8 * words.length ≤ s.comp.len.toNat) :
    rleFinish s = .ok (((s.withComp (s.comp.withMem (writeBytes m 0 (streamOf words)))).withEncoder s.encLw 0
      (BitVec.ofNat 64 (streamOf words).length)).withEncFinished true) := by
  rw [rleFinish_eq, rleFlush_encodes h hroom]
  rfl

end

/-! ### Sequences of operations -/

theorem execAll_cons {i : Instr} {is : List Instr} {s t : State} (h : exec i s = .next t) :
    execAll (i :: is) s = execAll is t := by
  rw [execAll, h]

theorem execAll_append {is js : List Instr} {s t : State} (h : execAll is s = .next t) :
    execAll (is ++ js) s = execAll js t := by
  induction is generalizing s with
  | nil => exact congrArg (execAll js) (Host.Outcome.next.inj h)
  | cons i is ih =>
    rw [execAll] at h
    split at h
    next u hu => rw [List.cons_append, execAll_cons hu, ih h]
    next => nomatch h
    next => nomatch h

/-- The pushes of a sequence, in a stream that has not been ended. -/
theorem execAll_pushes {s : State} {m : Memory} {pushed : List Word64} (words : List Word64)
    (h : s.encodes m pushed) (hf : s.encFinished = false)
    (hroom : 8 * (pushed.length + words.length) ≤ s.comp.len.toNat) :
    ∃ t, execAll (words.map .rlePush) s = .next t ∧ t.encodes m (pushed ++ words) ∧ t.comp.len = s.comp.len := by
  induction words generalizing s pushed with
  | nil => exact ⟨s, rfl, by rwa [List.append_nil], rfl⟩
  | cons w ws ih =>
    rw [List.length_cons] at hroom
    obtain ⟨t, hpush, ht⟩ := rlePush_encodes w h (by omega)
    have hframe := (rlePush_frame hpush).1
    have hlen : t.comp.len = s.comp.len := by rw [hframe]; rfl
    have hft : t.encFinished = false := by rw [hframe]; exact hf
    have hexec : exec (.rlePush w) s = .next (t.withResult .noResult) := by
      rw [exec_rlePush_eq w hf, hpush]
      rfl
    have hroom' : 8 * ((pushed ++ [w]).length + ws.length) ≤ t.comp.len.toNat := by
      rw [hlen, List.length_append, List.length_singleton]
      omega
    obtain ⟨u, hu, henc, hulen⟩ := ih (s := t.withResult .noResult) (pushed := pushed ++ [w]) ht hft hroom'
    refine ⟨u, (execAll_cons hexec).trans hu, ?_, hulen.trans hlen⟩
    rwa [List.append_assoc] at henc

/-- The whole run of the encoder: the stream of the words pushed stands in COMP from offset 0 (R194). -/
theorem execAll_encoderRun {s : State} {words : List Word64} (hroom : 8 * words.length ≤ s.comp.len.toNat) :
    ∃ t, execAll (encoderRun words) s = .next t ∧ t.result = .byteCount t.encWc ∧
      t.encWc.toNat = (streamOf words).length ∧ t.encMc = 0 ∧
      t.comp = s.comp.withMem (writeBytes s.comp.mem 0 (streamOf words)) := by
  have hlen := streamOf_length_le words
  have hmax := s.comp.len.isLt
  have hinit := exec_rleInit s
  generalize hs₀ : ((s.withEncoder s.encLw 0 0).withEncFinished false).withResult .noResult = s₀ at hinit
  have hcomp : s₀.comp = s.comp := by rw [← hs₀]; rfl
  have hstart : s₀.encodes s.comp.mem [] := by
    rw [← hs₀]
    exact encodes_nil rfl rfl
  obtain ⟨t, hpushes, ht, htlen⟩ := execAll_pushes words hstart (by rw [← hs₀]; rfl)
    (by rwa [hcomp, List.length_nil, Nat.zero_add])
  rw [List.nil_append] at ht
  have hfinish := rleFinish_encodes ht (by rwa [htlen, hcomp])
  have hexec := exec_rleFinish_eq t
  rw [hfinish, Except.map, outcomeOf_ok] at hexec
  have hrun := execAll_cons (is := words.map .rlePush ++ [.rleFinish]) hinit
  rw [execAll_append hpushes, execAll_cons hexec] at hrun
  refine ⟨_, hrun, rfl, (BitVec.toNat_ofNat _ _).trans (Nat.mod_eq_of_lt (by omega)), rfl, ?_⟩
  show t.comp.withMem _ = _
  rw [Buffer.withMem, Buffer.withMem, htlen, hcomp]

/-- Settles O34: three lemmas about `runsOf`, and `execAll_encoderRun`. -/
theorem encoderWritesMaximalRuns : Obligations.EncoderWritesMaximalRuns := by
  refine ⟨fun words => ⟨runsOf_concat words, one_le_of_mem_runsOf, runsOf_isChain words⟩, ?_⟩
  intro s words hwf hroom
  obtain ⟨t, hexec, hresult, hwc, hmc, hcomp⟩ := execAll_encoderRun hroom
  refine ⟨t, hexec, hresult, hwc, hmc, by rw [hcomp]; rfl, ?stream, fun a ha => ?behind⟩ <;>
    rw [hcomp, Buffer.withMem_mem]
  case stream => exact readBytes_writeBytes_same hwf 0 _
  case behind => exact readByte_writeBytes_other hwf (.inr (by rwa [Nat.zero_add]))

/-- Settles O35: ENC.WC is the length of the stream, whose cost `runCost` sums. -/
theorem encodedSizeIsAtMostLiteral : Obligations.EncodedSizeIsAtMostLiteral := by
  intro s words _ hroom
  obtain ⟨t, hexec, -, hwc, -⟩ := execAll_encoderRun hroom
  refine ⟨t, hexec, ?_⟩
  rw [hwc]
  exact ⟨streamOf_length words, by rw [streamOf_length]; exact sum_runCost_mod _, streamOf_length_le words,
    streamOf_length_eq_iff words⟩

end Sys2Proof.Machine

/-! ## Reading back what was encoded

`State.atBoundary s bytes`: the decoder stands at a record boundary with exactly `bytes` unread. `Decodes bytes words`:
wherever the decoder stands before `bytes`, RLD.READ delivers `words` and stands behind them. That property composes, so
that the stream of a word sequence is decoded run by run, and a run record by record (R201, R226). -/

namespace Sys2Proof.Machine

/-! ### The bytes unread -/

/-- The bytes of the stream that RLD.READ has not passed. -/
def State.unread (s : State) : List Byte := readBytes s.comp.mem s.decRo.toNat s.remain

/-- At a record boundary of a stream that lies in COMP, `bytes` remain. -/
def State.atBoundary (s : State) (bytes : List Byte) : Prop :=
  s.decRr = 0 ∧ s.decLen.toNat ≤ s.comp.len.toNat ∧ s.unread = bytes

section
variable {s : State}

theorem unread_length (s : State) : s.unread.length = s.remain := readBytes_length _ _ _

/-- Where bytes remain, they lie in COMP. -/
theorem decRo_add_le {n : Nat} (hlen : s.decLen.toNat ≤ s.comp.len.toNat) (hn : n ≤ s.remain) (h0 : 0 < n) :
    s.decRo.toNat + n ≤ s.comp.len.toNat := by
  have hremain : n ≤ s.decLen.toNat - s.decRo.toNat := hn
  omega

/-- A word of the bytes unread, wherever it stands among them. -/
theorem wordIn_of_unread {xs ys : List Byte} {w : Word64} (hunread : s.unread = xs ++ be64Bytes w ++ ys) :
    wordIn s.comp.mem (s.decRo.toNat + xs.length) = w := by
  have hremain := unread_length s
  rw [hunread] at hremain
  simp only [List.length_append, be64Bytes_length] at hremain
  have hword : be64At s.unread xs.length = wordIn s.comp.mem (s.decRo.toNat + xs.length) :=
    be64At_readBytes _ _ (by omega)
  rw [← hword, hunread, be64At_be64Bytes]

theorem remain_withDecoder_add {n : Nat} (hn : n ≤ s.remain) (rr : Count) :
    (s.withDecoder (s.decRo + BitVec.ofNat 64 n) rr).remain = s.remain - n := by
  show s.decLen.toNat - (s.decRo + BitVec.ofNat 64 n).toNat = _
  rw [toNat_decRo_add hn, ← Nat.sub_sub]
  rfl

/-- Moving DEC.RO passes the first of the bytes unread. -/
theorem unread_withDecoder_add {n : Nat} (hn : n ≤ s.remain) (rr : Count) :
    (s.withDecoder (s.decRo + BitVec.ofNat 64 n) rr).unread = s.unread.drop n := by
  have hsplit := readBytes_append s.comp.mem s.decRo.toNat n (s.remain - n)
  rw [Nat.add_sub_cancel' hn] at hsplit
  rw [State.unread, remain_withDecoder_add hn, State.withDecoder_decRo, toNat_decRo_add hn, State.withDecoder_comp,
    State.unread, hsplit, List.drop_left' (readBytes_length _ _ _)]

/-- Behind the first `xs` of the bytes unread, with no run entered, the decoder is at a record boundary again. -/
theorem atBoundary_withDecoder_add {xs ys : List Byte} (hlen : s.decLen.toNat ≤ s.comp.len.toNat)
    (hunread : s.unread = xs ++ ys) : (s.withDecoder (s.decRo + BitVec.ofNat 64 xs.length) 0).atBoundary ys := by
  have hremain := unread_length s
  rw [hunread, List.length_append] at hremain
  refine ⟨rfl, hlen, ?_⟩
  rw [unread_withDecoder_add (by omega), hunread, List.drop_left]

end

/-! ### Sequences of reads -/

theorem readsFrom_succ {n : Nat} {s u : State} {vs : List (Option Word64)} :
    readsFrom (n + 1) s = some (vs, u) ↔
      ∃ t v ws, exec .rldRead s = .next t ∧ t.result = .sample v ∧ readsFrom n t = some (ws, u) ∧
        vs = v :: ws := by
  rw [readsFrom]
  constructor
  · intro h
    split at h
    next t ht =>
      split at h
      next v ws w hv hws =>
        obtain ⟨rfl, rfl⟩ := Prod.mk.inj (Option.some.inj h)
        exact ⟨t, v, ws, ht, hv, hws, rfl⟩
      next => nomatch h
    next => nomatch h
  · rintro ⟨t, v, ws, ht, hv, hws, rfl⟩
    simp only [ht, hv, hws]

theorem readsFrom_add {n k : Nat} {s t u : State} {vs ws : List (Option Word64)}
    (hn : readsFrom n s = some (vs, t)) (hk : readsFrom k t = some (ws, u)) :
    readsFrom (n + k) s = some (vs ++ ws, u) := by
  induction n generalizing s vs with
  | zero =>
    obtain ⟨rfl, rfl⟩ := Prod.mk.inj (Option.some.inj hn)
    rwa [Nat.zero_add]
  | succ n ih =>
    obtain ⟨a, v, xs, ha, hv, hxs, rfl⟩ := readsFrom_succ.mp hn
    rw [Nat.add_right_comm]
    exact readsFrom_succ.mpr ⟨a, v, xs ++ ws, ha, hv, ih hxs, rfl⟩

/-! ### Inside a run -/

section
variable {s : State}

/-- Inside a run RLD.READ delivers the word at DEC.RO, which it passes with the last delivery (R222). -/
theorem exec_rldRead_inside (hrr : s.decRr ≠ 0) (h8 : 8 ≤ s.remain) (hin : s.decRo.toNat + 8 ≤ s.comp.len.toNat) :
    exec .rldRead s = .next ((s.withDecoder (if s.decRr = 1 then s.decRo + 8 else s.decRo) (s.decRr - 1)).withResult
      (.sample (some (wordIn s.comp.mem s.decRo.toNat)))) := by
  have hinside : s.insideRun = true := bne_iff_ne.mpr hrr
  have hword : w64 (s.withDecoder s.decRo (s.decRr - 1)) s.decRo.toNat = .ok (wordIn s.comp.mem s.decRo.toNat) :=
    w64_inside hin
  have hlast : (s.withDecoder s.decRo (s.decRr - 1)).insideRun = true ↔ ¬ s.decRr = 1 := by
    rw [State.insideRun, bne_iff_ne, State.withDecoder_decRr]
    exact not_congr sub_eq_zero
  refine exec_rldRead_ok (x := (some _, s.withDecoder _ _)) ?_
  rw [rldRead, if_neg (by omega), if_pos hinside]
  dsimp only [State.withDecoder_decRo]
  rw [hword, ok_bind, pure_eq_ok]
  by_cases h1 : s.decRr = 1
  · rw [if_neg (fun h => hlast.mp h h1), if_pos h1]
    rfl
  · rw [if_pos (hlast.mpr h1), if_neg h1]

theorem count_ne_zero {c : Count} {n : Nat} (hc : c.toNat = n + 1) : c ≠ 0 := fun h => by
  rw [h] at hc
  nomatch hc

theorem count_ne_one {c : Count} {n : Nat} (hc : c.toNat = n + 2) : c ≠ 1 := fun h => by
  rw [h] at hc
  nomatch hc

theorem toNat_count_sub_one {c : Count} {n : Nat} (hc : c.toNat = n + 1) : (c - 1).toNat = n := by
  have h1 : (1 : Count).toNat = 1 := rfl
  rw [BitVec.toNat_sub_of_le (by rw [BitVec.le_def]; omega), hc, h1, Nat.add_sub_cancel]

/-- The deliveries that a run still owes, all of them (R226). -/
theorem readsFrom_inside {n : Nat} (hrr : s.decRr.toNat = n + 1) (h8 : 8 ≤ s.remain)
    (hin : s.decRo.toNat + 8 ≤ s.comp.len.toNat) :
    ∃ r, readsFrom (n + 1) s = some (List.replicate (n + 1) (some (wordIn s.comp.mem s.decRo.toNat)),
      (s.withDecoder (s.decRo + 8) 0).withResult r) := by
  induction n generalizing s with
  | zero =>
    have hread := exec_rldRead_inside (count_ne_zero hrr) h8 hin
    have h1 : s.decRr = 1 := BitVec.eq_of_toNat_eq hrr
    rw [h1, if_pos rfl] at hread
    exact ⟨_, readsFrom_succ.mpr ⟨_, _, [], hread, rfl, rfl, rfl⟩⟩
  | succ n ih =>
    have hread := exec_rldRead_inside (count_ne_zero hrr) h8 hin
    rw [if_neg (count_ne_one hrr)] at hread
    obtain ⟨r, hr⟩ := ih (s := (s.withDecoder s.decRo (s.decRr - 1)).withResult _) (toNat_count_sub_one hrr) h8 hin
    exact ⟨r, readsFrom_succ.mpr ⟨_, _, _, hread, rfl, hr, rfl⟩⟩

/-- The deliveries of a run record of at least two, from its header on (R223, R226). -/
theorem readsFrom_run {l : Count} {v : Word64} {n : Nat} (hl : l.toNat = n + 2) (hrr : s.decRr = 0)
    (h24 : 24 ≤ s.remain) (hin : s.decRo.toNat + 24 ≤ s.comp.len.toNat)
    (hmarker : wordIn s.comp.mem s.decRo.toNat = marker) (hlength : wordIn s.comp.mem (s.decRo.toNat + 8) = l)
    (hvalue : wordIn s.comp.mem (s.decRo.toNat + 16) = v) :
    ∃ r, readsFrom (n + 2) s =
      some (List.replicate (n + 2) (some v), (s.withDecoder (s.decRo + 24) 0).withResult r) := by
  have hread := exec_rldRead_run hrr h24 hin hmarker
  rw [hlength, hvalue, exec_run_of_ne_zero (count_ne_zero hl), delivered_deliverRunHead,
    if_neg (fun h => count_ne_one hl h.1)] at hread
  -- behind the header the decoder stands at the value, and the run owes one delivery less
  have hro : (s.decRo + 16).toNat = s.decRo.toNat + 16 := toNat_decRo_add (n := 16) (by omega)
  have hpassed : (s.withDecoder (s.decRo + 16) (l - 1)).remain = s.remain - 16 :=
    remain_withDecoder_add (n := 16) (by omega) _
  have hrest := readsFrom_inside (s := (s.withDecoder (s.decRo + 16) (l - 1)).withResult (.sample (some v)))
    (toNat_count_sub_one hl) (by rw [State.withResult_remain, hpassed]; omega)
    (by show (s.decRo + 16).toNat + 8 ≤ s.comp.len.toNat; omega)
  obtain ⟨r, hr⟩ := hrest
  have hword : wordIn s.comp.mem (s.decRo + 16).toNat = v := by rw [hro, hvalue]
  have hend : s.decRo + 16 + 8 = s.decRo + 24 := BitVec.add_assoc _ _ _
  simp only [State.withResult_comp, State.withDecoder_comp, State.withResult_decRo, State.withDecoder_decRo, hword,
    hend] at hr
  exact ⟨r, readsFrom_succ.mpr ⟨_, _, _, hread, rfl, hr, rfl⟩⟩

end

/-! ### What bytes decode to -/

/-- Read from a record boundary, `bytes` deliver `words`, and the decoder ends at the record boundary behind them. -/
def Decodes (bytes : List Byte) (words : List Word64) : Prop :=
  ∀ (s : State) (rest : List Byte), s.atBoundary (bytes ++ rest) →
    ∃ t, readsFrom words.length s = some (words.map some, t) ∧ t.atBoundary rest

theorem decodes_nil : Decodes [] [] := fun s _ hs => ⟨s, rfl, hs⟩

theorem Decodes.append {xs ys : List Byte} {vs ws : List Word64} (hx : Decodes xs vs) (hy : Decodes ys ws) :
    Decodes (xs ++ ys) (vs ++ ws) := by
  intro s rest hs
  rw [List.append_assoc] at hs
  obtain ⟨t, hvs, ht⟩ := hx s _ hs
  obtain ⟨u, hws, hu⟩ := hy t _ ht
  refine ⟨u, ?_, hu⟩
  rw [List.length_append, List.map_append]
  exact readsFrom_add hvs hws

/-- A LIT record delivers its word once, if the word does not open a run record (R224). -/
theorem decodes_lit {v : Word64} (hv : v ≠ marker) : Decodes (be64Bytes v) [v] := by
  rintro s rest ⟨hrr, hlen, hunread⟩
  have hremain := unread_length s
  rw [hunread, List.length_append, be64Bytes_length] at hremain
  have hword : wordIn s.comp.mem s.decRo.toNat = v := wordIn_of_unread (xs := []) hunread
  have hread := exec_rldRead_lit hrr (by omega) (decRo_add_le hlen (by omega) (by decide))
    (fun h => hv (hword.symm.trans h.2))
  rw [hword, exec_lit, hrr] at hread
  exact ⟨_, readsFrom_succ.mpr ⟨_, _, [], hread, rfl, rfl, rfl⟩, atBoundary_withDecoder_add hlen hunread⟩

/-- A RUN record of at least two delivers its value as often as its length says (R223, R226). -/
theorem decodes_run {l : Count} (v : Word64) {n : Nat} (hl : l.toNat = n + 2) :
    Decodes (be64Bytes marker ++ be64Bytes l ++ be64Bytes v) (List.replicate (n + 2) v) := by
  rintro s rest ⟨hrr, hlen, hunread⟩
  have hremain := unread_length s
  simp only [hunread, List.length_append, be64Bytes_length] at hremain
  have hmarker : wordIn s.comp.mem s.decRo.toNat = marker :=
    wordIn_of_unread (xs := []) (ys := be64Bytes l ++ be64Bytes v ++ rest) (by simp [hunread])
  have hlength : wordIn s.comp.mem (s.decRo.toNat + 8) = l :=
    wordIn_of_unread (xs := be64Bytes marker) (ys := be64Bytes v ++ rest) (by simp [hunread])
  have hvalue : wordIn s.comp.mem (s.decRo.toNat + 16) = v :=
    wordIn_of_unread (xs := be64Bytes marker ++ be64Bytes l) hunread
  have hin := decRo_add_le hlen (n := 24) (by omega) (by decide)
  obtain ⟨r, hreads⟩ := readsFrom_run hl hrr (by omega) hin hmarker hlength hvalue
  refine ⟨(s.withDecoder (s.decRo + 24) 0).withResult r, ?_, atBoundary_withDecoder_add hlen hunread⟩
  rw [List.length_replicate, List.map_replicate]
  exact hreads

/-- The records of one run deliver it (R201): literals for up to three, else a run record. -/
theorem decodes_runRecords {v : Word64} (hv : v ≠ marker) {n : Nat} (hn : n < 2 ^ 64) :
    Decodes (recordsBytes (runRecords v n)) (List.replicate n v) := by
  unfold runRecords
  split
  next =>
    clear hn
    induction n with
    | zero => exact decodes_nil
    | succ n ih => exact (decodes_lit hv).append (ih (by omega))
  next hlong =>
    obtain ⟨k, rfl⟩ := Nat.exists_eq_add_of_lt (Nat.lt_of_not_le hlong)
    have hcount : (BitVec.ofNat 64 (3 + k + 1)).toNat = k + 2 + 2 := by
      rw [BitVec.toNat_ofNat, Nat.mod_eq_of_lt hn]
      omega
    have hrun := decodes_run v hcount
    rwa [show k + 2 + 2 = 3 + k + 1 by omega] at hrun

/-- The records of runs, one behind the other, deliver the runs one after the other. -/
theorem decodes_runs {runs : List (Word64 × Nat)} (h : ∀ run ∈ runs, run.1 ≠ marker ∧ run.2 < 2 ^ 64) :
    Decodes (runs.flatMap (fun run => recordsBytes (runRecords run.1 run.2)))
      (runs.flatMap (fun run => List.replicate run.2 run.1)) := by
  induction runs with
  | nil => exact decodes_nil
  | cons run runs ih =>
    obtain ⟨⟨hv, hn⟩, hruns⟩ := List.forall_mem_cons.mp h
    exact (decodes_runRecords hv hn).append (ih hruns)

/-- The stream of a sequence without MARKER delivers the sequence (R201). -/
theorem decodes_streamOf {words : List Word64} (hm : marker ∉ words) (hlen : words.length < 2 ^ 64) :
    Decodes (streamOf words) words := by
  have hruns := decodes_runs (runs := runsOf words) (fun run hrun =>
    ⟨fun h => hm (h ▸ mem_of_mem_runsOf hrun), Nat.lt_of_le_of_lt (length_le_of_mem_runsOf hrun) hlen⟩)
  rwa [runsOf_concat] at hruns

/-! ### From RLD.INIT to the end -/

theorem exec_rldInit (n : Len) (s : State) :
    exec (.rldInit n) s = .next (((s.withDecLen n).withDecoder 0 0).withResult .noResult) := rfl

/-- RLD.INIT stands at the first record of a stream that lies in COMP (R220). -/
theorem atBoundary_rldInit {s : State} {n : Len} (r : Result) (hn : n.toNat ≤ s.comp.len.toNat) :
    (((s.withDecLen n).withDecoder 0 0).withResult r).atBoundary (readBytes s.comp.mem 0 n.toNat) :=
  ⟨rfl, hn, rfl⟩

/-- With nothing unread RLD.READ answers the end of the stream (R221). -/
theorem exec_rldRead_of_unread_nil {s : State} (hs : s.atBoundary []) :
    exec .rldRead s = .next (s.withResult (.sample none)) := by
  obtain ⟨-, -, hunread⟩ := hs
  have hremain := unread_length s
  rw [hunread] at hremain
  exact exec_rldRead_end (by rw [← hremain]; decide)

/-- A whole stream is read until its end, which the next read answers. -/
theorem readsFrom_to_end {bytes : List Byte} {words : List Word64} {s : State} (h : Decodes bytes words)
    (hs : s.atBoundary bytes) : ∃ u, readsFrom (words.length + 1) s = some (words.map some ++ [none], u) := by
  obtain ⟨t, hwords, ht⟩ := h s [] (by rwa [List.append_nil])
  have hend := exec_rldRead_of_unread_nil ht
  exact ⟨_, readsFrom_add hwords (readsFrom_succ.mpr ⟨_, _, [], hend, rfl, rfl, rfl⟩)⟩

/-- Settles O36: `execAll_encoderRun` leaves the stream that `decodes_streamOf` reads. -/
theorem decoderReturnsWhatWasPushed : Obligations.DecoderReturnsWhatWasPushed := by
  intro s words hwf hroom hm
  have hmax := s.comp.len.isLt
  have hlen := streamOf_length_le words
  obtain ⟨t, hexec, -, hwc, -, hcomp⟩ := execAll_encoderRun hroom
  have hinCOMP : t.encWc.toNat ≤ t.comp.len.toNat := by
    rw [hcomp, hwc, Buffer.withMem_len]
    omega
  have hstart := atBoundary_rldInit .noResult hinCOMP
  rw [hwc, hcomp, Buffer.withMem_mem, readBytes_writeBytes_same hwf] at hstart
  obtain ⟨u, hu⟩ := readsFrom_to_end (decodes_streamOf hm (by omega)) hstart
  exact ⟨t, _, u, hexec, exec_rldInit t.encWc t, hu⟩

end Sys2Proof.Machine

/-! ## RunLengthDecoder

RLD.INIT (R220), RLD.READ step by step (R225), and how often a record of the stream delivers its value (R226). A run is
followed through two states: `State.atRunValue`, in which the decoder stands at the run's value and owes deliveries, and
`State.pastRun` behind the record. -/

namespace Sys2Proof.Machine

/-- Settles O37 by `exec_rldInit`. -/
theorem rldInitStartsTheStream : Obligations.RldInitStartsTheStream := fun s length => ⟨_, exec_rldInit length s⟩

/-! ### RLD.READ by its steps -/

section
variable {s : State}

/-- The first read of a run record that has a length (R223, R226). -/
theorem exec_rldRead_header (hrr : s.decRr = 0) (h24 : 24 ≤ s.remain) (hin : s.decRo.toNat + 24 ≤ s.comp.len.toNat)
    (hm : wordIn s.comp.mem s.decRo.toNat = marker) (hl : wordIn s.comp.mem (s.decRo.toNat + 8) ≠ 0) :
    exec .rldRead s = .next ((s.withDecoder
      (if wordIn s.comp.mem (s.decRo.toNat + 8) = 1 ∧ s.config.run1Deliveries = .once then s.decRo + 24
        else s.decRo + 16) (wordIn s.comp.mem (s.decRo.toNat + 8) - 1)).withResult
      (.sample (some (wordIn s.comp.mem (s.decRo.toNat + 16))))) := by
  obtain ⟨-, hrun, -⟩ := recordsDeliverAtTheBoundary s (wordIn s.comp.mem (s.decRo.toNat + 8))
    (wordIn s.comp.mem (s.decRo.toNat + 16))
  exact (exec_rldRead_run hrr h24 hin hm).trans (hrun hl)

/-- A run record of length 0 has no meaning (R226). -/
theorem exec_rldRead_header_zero (hrr : s.decRr = 0) (h24 : 24 ≤ s.remain)
    (hin : s.decRo.toNat + 24 ≤ s.comp.len.toNat) (hm : wordIn s.comp.mem s.decRo.toNat = marker)
    (hl : wordIn s.comp.mem (s.decRo.toNat + 8) = 0) : exec .rldRead s = .refused .runLengthZero := by
  rw [exec_rldRead_run hrr h24 hin hm, hl, exec_run_zero]

/-- A word at a record boundary that opens no run record is delivered and passed (R224). -/
theorem exec_rldRead_literal (hrr : s.decRr = 0) (h8 : 8 ≤ s.remain) (hin : s.decRo.toNat + 8 ≤ s.comp.len.toNat)
    (hlit : s.remain < 24 ∨ wordIn s.comp.mem s.decRo.toNat ≠ marker) :
    exec .rldRead s = .next ((s.withDecoder (s.decRo + 8) s.decRr).withResult
      (.sample (some (wordIn s.comp.mem s.decRo.toNat)))) := by
  have hnoRun : ¬ (24 ≤ s.remain ∧ wordIn s.comp.mem s.decRo.toNat = marker) := by
    rintro ⟨h24, hm⟩
    exact hlit.elim (fun h => by omega) (fun h => h hm)
  rw [exec_rldRead_lit hrr h8 hin hnoRun, exec_lit]

end

/-- Settles O38, one lemma for each step of R225. -/
theorem readFollowsItsSteps : Obligations.ReadFollowsItsSteps := by
  intro s remain w l
  refine ⟨fun h8 => exec_rldRead_end h8, fun h8 hin hrr => exec_rldRead_inside hrr h8 hin,
    fun h24 hin hrr hm => ⟨fun hl => exec_rldRead_header_zero hrr h24 hin hm hl,
      fun hl => exec_rldRead_header hrr h24 hin hm hl⟩,
    fun h8 hin hrr hlit => exec_rldRead_literal hrr h8 hin hlit⟩

/-! ### The deliveries of a run -/

/-- `k` deliveries after a run record of length `l` was met at DEC.RO, before the last one: the decoder stands at the
run's value `v`. -/
def State.atRunValue (s : State) (l : Count) (v : Word64) (k : Nat) : State :=
  (s.withDecoder (s.decRo + 16) (l - BitVec.ofNat 64 k)).withResult (.sample (some v))

/-- After the last delivery of the run record at DEC.RO: the decoder stands behind the record. -/
def State.pastRun (s : State) (v : Word64) : State :=
  (s.withDecoder (s.decRo + 24) s.decRr).withResult (.sample (some v))

/-- One more read behind a sequence of reads. -/
theorem readsFrom_concat {n : Nat} {s t u : State} {vs : List (Option Word64)} {v : Option Word64}
    (hn : readsFrom n s = some (vs, t)) (hread : exec .rldRead t = .next u) (hv : u.result = .sample v) :
    readsFrom (n + 1) s = some (vs ++ [v], u) :=
  readsFrom_add hn (readsFrom_succ.mpr ⟨u, v, [], hread, hv, rfl, rfl⟩)

theorem readsFrom_one {s t : State} {v : Option Word64} (hread : exec .rldRead s = .next t)
    (hv : t.result = .sample v) : readsFrom 1 s = some ([v], t) := readsFrom_concat (s := s) (n := 0) rfl hread hv

/-- A run of length `l` that has made `k` deliveries owes `l - k`. -/
theorem toNat_sub_deliveries {l : Count} {k : Nat} (hk : k ≤ l.toNat) :
    (l - BitVec.ofNat 64 k).toNat = l.toNat - k := by
  have hlt : k < 2 ^ 64 := Nat.lt_of_le_of_lt hk l.isLt
  rw [BitVec.toNat_sub_of_le (by rwa [BitVec.le_def, BitVec.toNat_ofNat, Nat.mod_eq_of_lt hlt]), BitVec.toNat_ofNat,
    Nat.mod_eq_of_lt hlt]

section
variable {s : State} {l : Count} {v : Word64} (h24 : 24 ≤ s.remain) (hin : s.decRo.toNat + 24 ≤ s.comp.len.toNat)
  (hvalue : wordIn s.comp.mem (s.decRo.toNat + 16) = v)
include h24

theorem decRo_atRunValue (k : Nat) : (s.atRunValue l v k).decRo.toNat = s.decRo.toNat + 16 :=
  toNat_decRo_add (n := 16) (by omega)

theorem remain_atRunValue (k : Nat) : (s.atRunValue l v k).remain = s.remain - 16 :=
  remain_withDecoder_add (s := s) (n := 16) (by omega) (l - BitVec.ofNat 64 k)

include hvalue in
theorem wordIn_atRunValue (k : Nat) : wordIn s.comp.mem (s.atRunValue l v k).decRo.toNat = v := by
  rw [decRo_atRunValue h24, hvalue]

include hin hvalue

/-- While a run owes deliveries RLD.READ delivers its value, and passes it with the last one (R222). -/
theorem exec_rldRead_atRunValue {k : Nat} (hk : k < l.toNat) :
    exec .rldRead (s.atRunValue l v k) = .next (((s.atRunValue l v k).withDecoder
      (if l.toNat = k + 1 then s.decRo + 24 else s.decRo + 16) (l - BitVec.ofNat 64 (k + 1))).withResult
      (.sample (some v))) := by
  have howed : (l - BitVec.ofNat 64 k).toNat = l.toNat - k := toNat_sub_deliveries hk.le
  have hrr : (s.atRunValue l v k).decRr ≠ 0 := fun h => by
    have hzero : (l - BitVec.ofNat 64 k).toNat = 0 := congrArg BitVec.toNat h
    omega
  have hlast : (s.atRunValue l v k).decRr = 1 ↔ l.toNat = k + 1 := by
    have hone : (l - BitVec.ofNat 64 k).toNat = 1 ↔ l.toNat = k + 1 := by omega
    exact Iff.trans (BitVec.toNat_inj (y := 1)).symm hone
  have hpassed : (s.atRunValue l v k).decRo + 8 = s.decRo + 24 := BitVec.add_assoc s.decRo 16 8
  have hnext : (s.atRunValue l v k).decRr - 1 = l - BitVec.ofNat 64 (k + 1) := by
    show l - BitVec.ofNat 64 k - 1 = _
    rw [BitVec.ofNat_add, sub_sub]
    rfl
  have hread := exec_rldRead_inside hrr (by rw [remain_atRunValue h24]; omega)
    (by rw [decRo_atRunValue h24]; exact hin)
  have hword : wordIn (s.atRunValue l v k).comp.mem (s.atRunValue l v k).decRo.toNat = v :=
    wordIn_atRunValue h24 hvalue k
  rw [hword, hpassed, hnext] at hread
  simp only [hlast] at hread
  exact hread

/-- A delivery that is not the last leaves the decoder at the value. -/
theorem exec_rldRead_atRunValue_more {k : Nat} (hk : k + 1 < l.toNat) :
    exec .rldRead (s.atRunValue l v k) = .next (s.atRunValue l v (k + 1)) := by
  rw [exec_rldRead_atRunValue h24 hin hvalue (by omega), if_neg (by omega)]
  rfl

/-- The last delivery takes the decoder behind the record. -/
theorem exec_rldRead_atRunValue_last (hrr : s.decRr = 0) {k : Nat} (hk : l.toNat = k + 1) :
    exec .rldRead (s.atRunValue l v k) = .next (s.pastRun v) := by
  have hdone : l - BitVec.ofNat 64 (k + 1) = s.decRr := by
    rw [hrr, ← hk, BitVec.ofNat_toNat, BitVec.setWidth_eq, sub_self]
  rw [exec_rldRead_atRunValue h24 hin hvalue (by omega), if_pos hk, hdone]
  rfl

/-- A run of length 1 that is entered leaves the decoder at a record boundary before its value, which the next read
takes for a literal unless it opens a run record (R226). -/
theorem exec_rldRead_length_one (hrr : s.decRr = 0) (hl : l = 1) (hlit : s.remain < 40 ∨ v ≠ marker) :
    exec .rldRead (s.atRunValue l v 1) = .next (s.pastRun v) := by
  have hboundary : (s.atRunValue l v 1).decRr = 0 := by rw [hl]; rfl
  have hword : wordIn (s.atRunValue l v 1).comp.mem (s.atRunValue l v 1).decRo.toNat = v :=
    wordIn_atRunValue h24 hvalue 1
  have hremain : (s.atRunValue l v 1).remain = s.remain - 16 := remain_atRunValue h24 1
  have hpassed : (s.atRunValue l v 1).decRo + 8 = s.decRo + 24 := BitVec.add_assoc s.decRo 16 8
  have hread := exec_rldRead_literal hboundary (by omega) (by rw [decRo_atRunValue h24]; exact hin)
    (by rw [hword, hremain]; exact hlit.imp_left (fun h => by omega))
  rw [hword, hpassed, hboundary, ← hrr] at hread
  exact hread

variable (hrr : s.decRr = 0) (hmarker : wordIn s.comp.mem s.decRo.toNat = marker)
  (hlength : wordIn s.comp.mem (s.decRo.toNat + 8) = l)
include hrr hmarker hlength

/-- The first delivery of a run, unless it is its only one (R223). -/
theorem exec_rldRead_header_enters (hl : l ≠ 0) (htwice : ¬ (l = 1 ∧ s.config.run1Deliveries = .once)) :
    exec .rldRead s = .next (s.atRunValue l v 1) := by
  subst hlength hvalue
  rw [exec_rldRead_header hrr h24 hin hmarker hl, if_neg htwice]
  rfl

/-- The only delivery of a run of length 1, where RUN1_DELIVERIES is 1 (R226). -/
theorem exec_rldRead_header_once (hl : l = 1) (honce : s.config.run1Deliveries = .once) :
    exec .rldRead s = .next (s.pastRun v) := by
  subst hlength hvalue
  rw [exec_rldRead_header hrr h24 hin hmarker (by rw [hl]; decide), if_pos ⟨hl, honce⟩, hl,
    State.pastRun, hrr]
  rfl

/-- As long as a run owes deliveries, every read has delivered its value (R226). -/
theorem readsFrom_header {k : Nat} (hk : 1 ≤ k) (hkl : k < l.toNat) :
    readsFrom k s = some (List.replicate k (some v), s.atRunValue l v k) := by
  have hl : l ≠ 0 := fun h => by rw [h] at hkl; exact Nat.not_lt_zero _ hkl
  have htwice : ¬ (l = 1 ∧ s.config.run1Deliveries = .once) := fun h => by
    have hone : l.toNat = 1 := congrArg BitVec.toNat h.1
    omega
  induction k, hk using Nat.le_induction with
  | base => exact readsFrom_one (exec_rldRead_header_enters h24 hin hvalue hrr hmarker hlength hl htwice) rfl
  | succ k _ ih =>
    rw [List.replicate_succ']
    exact readsFrom_concat (ih (by omega)) (exec_rldRead_atRunValue_more h24 hin hvalue hkl) rfl

/-- A run of at least two makes as many deliveries as its length says (R226). -/
theorem readsFrom_header_all (hl : 2 ≤ l.toNat) :
    readsFrom l.toNat s = some (List.replicate l.toNat (some v), s.pastRun v) := by
  obtain ⟨k, hk⟩ : ∃ k, l.toNat = k + 1 := ⟨l.toNat - 1, by omega⟩
  have hbut := readsFrom_header h24 hin hvalue hrr hmarker hlength (k := k) (by omega) (by omega)
  rw [hk, List.replicate_succ']
  exact readsFrom_concat hbut (exec_rldRead_atRunValue_last h24 hin hvalue hrr hk) rfl

end

/-- Settles O40: a literal in one read, a run by `readsFrom_header_all`, and the two short runs by themselves. -/
theorem recordsDeliverTheirLength : Obligations.RecordsDeliverTheirLength := by
  intro s hrr remain w l v past inside
  refine ⟨fun h8 hin hlit => readsFrom_one (exec_rldRead_literal hrr h8 hin hlit) rfl,
    fun h24 hin hm => ⟨fun hl => ?many, fun hl htwice => ?twice, fun hl honce => ?once, fun hl => ?zero⟩⟩
  case many =>
    exact ⟨readsFrom_header_all h24 hin rfl hrr hm rfl hl,
      fun k hk hkl => readsFrom_header h24 hin rfl hrr hm rfl hk hkl⟩
  case twice =>
    have hne : l ≠ 0 := by rw [hl]; decide
    have hfirst : readsFrom 1 s = some ([some v], s.atRunValue l v 1) :=
      readsFrom_one (exec_rldRead_header_enters h24 hin rfl hrr hm rfl hne (fun h => nomatch htwice.symm.trans h.2)) rfl
    exact ⟨hfirst, fun hlit => readsFrom_concat hfirst (exec_rldRead_length_one h24 hin rfl hrr hl hlit) rfl⟩
  case once => exact readsFrom_one (exec_rldRead_header_once h24 hin rfl hrr hm rfl hl honce) rfl
  case zero => exact exec_rldRead_header_zero hrr h24 hin hm hl

end Sys2Proof.Machine

/-! ## DECODE

What DECODE does is told by the reads that RLD.READ makes on the same stream. The two differ in what RLD.READ never
looks at (PROFILE.STD, PIPE.BI, RGBA_OUT, the result of the read before), so `State.sameStream` relates their states; a
batch is then four reads (R257), and a frame is `exec_decode_of_reads`. -/

namespace Sys2Proof.Machine

/-! ### What RLD.READ looks at -/

/-- Nothing that RLD.READ looks at tells `s` from `t`. -/
structure State.sameStream (s t : State) : Prop where
  ro : s.decRo = t.decRo
  rr : s.decRr = t.decRr
  len : s.decLen = t.decLen
  comp : s.comp = t.comp
  config : s.config = t.config

section
variable {s s' t u : State}

theorem State.sameStream.remain (h : s.sameStream s') : s.remain = s'.remain := by
  rw [State.remain, State.remain, h.len, h.ro]

/-- An RLD.READ that answers has moved the decoder and left a delivery in the result. -/
theorem exec_rldRead_next (hread : exec .rldRead s = .next t) :
    ∃ v ro rr, rldRead s = .ok (v, s.withDecoder ro rr) ∧ t = (s.withDecoder ro rr).withResult (.sample v) := by
  obtain ⟨⟨v, a⟩, ha, hd⟩ := bind_ok.mp (outcomeOf_next.mp hread)
  obtain rfl := Except.ok.inj hd
  have hmoved := rldRead_frame ha
  rw [hmoved] at ha
  exact ⟨v, a.decRo, a.decRr, ha, congrArg (·.withResult (.sample v)) hmoved⟩

/-- RLD.READ does the same in states that it cannot tell apart. -/
theorem exec_rldRead_congr (hss : s.sameStream s') {v : Option Word64} (hread : rldRead s = .ok (v, t)) :
    exec .rldRead s' = .next ((s'.withDecoder t.decRo t.decRr).withResult (.sample v)) := by
  have hremain := hss.remain
  obtain ⟨hro, hrr', -, hcomp, hconfig⟩ := hss
  rcases rldRead_cases hread with ⟨h8, rfl, rfl⟩ | ⟨h8, hrr, x, hx, rfl, rfl⟩ |
    ⟨h24, hrr, hm, l, x, hl, hl0, hx, rfl, rfl⟩ | ⟨h8, hrr, x, hx, hlit, rfl, rfl⟩
  case inl =>
    rw [hro, hrr']
    exact exec_rldRead_end (by omega)
  case inr.inl =>
    obtain ⟨hin, rfl⟩ := w64_ok.mp hx
    rw [State.withDecoder_decRo, State.withDecoder_decRr]
    rw [hrr'] at hrr ⊢
    rw [hro, hcomp] at hin ⊢
    exact exec_rldRead_inside hrr (by omega) hin
  case inr.inr.inl =>
    have hvalueRo : (s.decRo + 16).toNat = s.decRo.toNat + 16 := toNat_decRo_add (n := 16) (by omega)
    have hpassed : s.decRo + 16 + 8 = s.decRo + 24 := BitVec.add_assoc s.decRo 16 8
    obtain ⟨-, hm⟩ := w64_ok.mp hm
    obtain ⟨-, rfl⟩ := w64_ok.mp hl
    obtain ⟨hin, rfl⟩ := w64_ok.mp hx
    rw [State.withDecoder_decRo, State.withDecoder_decRr, hpassed, hconfig]
    rw [hvalueRo] at hin ⊢
    rw [hro, hcomp] at hm hl0 hin ⊢
    exact exec_rldRead_header (hrr' ▸ hrr) (by omega) hin hm.symm hl0
  case inr.inr.inr =>
    obtain ⟨hin, rfl⟩ := w64_ok.mp hx
    rw [State.withDecoder_decRo, State.withDecoder_decRr, ← hrr, hrr']
    rw [hro, hcomp] at hin hlit ⊢
    exact exec_rldRead_literal (hrr' ▸ hrr) (by omega) hin (by rwa [not_and_or, Nat.not_le, hremain] at hlit)

/-- One of a sequence of reads, made in another state that looks the same. -/
theorem rldRead_of_readsFrom (hss : s.sameStream s') {n : Nat} {v : Option Word64} {vs : List (Option Word64)}
    (hreads : readsFrom (n + 1) s = some (v :: vs, u)) :
    ∃ t ro rr, rldRead s' = .ok (v, s'.withDecoder ro rr) ∧ t.sameStream (s'.withDecoder ro rr) ∧
      readsFrom n t = some (vs, u) := by
  obtain ⟨t, x, xs, ht, hx, hxs, hcons⟩ := readsFrom_succ.mp hreads
  obtain ⟨rfl, rfl⟩ := List.cons.inj hcons
  obtain ⟨v', ro, rr, hread, rfl⟩ := exec_rldRead_next ht
  obtain rfl := Result.sample.inj hx
  obtain ⟨y, ro', rr', hread', hsame⟩ := exec_rldRead_next (exec_rldRead_congr hss hread)
  have hv : v' = y := Result.sample.inj (congrArg State.result hsame)
  have hro : ro = ro' := congrArg State.decRo hsame
  have hrr : rr = rr' := congrArg State.decRr hsame
  subst hv hro hrr
  exact ⟨(s.withDecoder ro rr).withResult (.sample v'), ro, rr, hread',
    ⟨rfl, rfl, hss.len, hss.comp, hss.config⟩, hxs⟩

end

theorem readsFrom_length {n : Nat} {s u : State} {vs : List (Option Word64)} (h : readsFrom n s = some (vs, u)) :
    vs.length = n := by
  induction n generalizing s vs with
  | zero =>
    obtain ⟨rfl, -⟩ := Prod.mk.inj (Option.some.inj h)
    rfl
  | succ n ih =>
    obtain ⟨t, v, ws, -, -, hws, rfl⟩ := readsFrom_succ.mp h
    rw [List.length_cons, ih hws]

/-! ### Batches -/

section
variable {s s' u : State} {w0 w1 w2 w3 : Word64}

/-- Four of a sequence of reads are the four reads of a batch (R257). -/
theorem readFour_of_readsFrom (hss : s.sameStream s') {n : Nat} {vs : List (Option Word64)}
    (hreads : readsFrom (n + 4) s = some (some w0 :: some w1 :: some w2 :: some w3 :: vs, u)) :
    ∃ t ro rr, readFour s' = .ok (some (w0, w1, w2, w3), s'.withDecoder ro rr) ∧
      t.sameStream (s'.withDecoder ro rr) ∧ readsFrom n t = some (vs, u) := by
  obtain ⟨t1, ro1, rr1, h1, hss1, hreads1⟩ := rldRead_of_readsFrom hss hreads
  obtain ⟨t2, ro2, rr2, h2, hss2, hreads2⟩ := rldRead_of_readsFrom hss1 hreads1
  obtain ⟨t3, ro3, rr3, h3, hss3, hreads3⟩ := rldRead_of_readsFrom hss2 hreads2
  obtain ⟨t4, ro4, rr4, h4, hss4, hreads4⟩ := rldRead_of_readsFrom hss3 hreads3
  refine ⟨t4, ro4, rr4, ?_, hss4, hreads4⟩
  simp only [readFour, h1, h2, h3, h4, ok_bind, pure_eq_ok]
  rfl

/-- DECODE's loop behind the batches that `words` fill: their pixels are in RGBA_OUT from the batch PIPE.BI on, and the
decoder stands where its reads have left it (R257). -/
def State.decodedTo (s : State) (words : List Word64) (ro : Len) (rr : Count) : State :=
  ((s.withRgbaOut (s.rgbaOut.withMem (writeBytes s.rgbaOut.mem (32 * s.pipeBi.toNat)
    (words.flatMap (pairBytes s.config s.std))))).withDecoder ro rr).withPipeBi
    (s.pipeBi + BitVec.ofNat 64 (words.length / 4))

@[simp] theorem State.decodedTo_decLen (s : State) (words : List Word64) (ro : Len) (rr : Count) :
    (s.decodedTo words ro rr).decLen = s.decLen := rfl
@[simp] theorem State.decodedTo_comp (s : State) (words : List Word64) (ro : Len) (rr : Count) :
    (s.decodedTo words ro rr).comp = s.comp := rfl
@[simp] theorem State.decodedTo_config (s : State) (words : List Word64) (ro : Len) (rr : Count) :
    (s.decodedTo words ro rr).config = s.config := rfl
@[simp] theorem State.decodedTo_rgbaOut_len (s : State) (words : List Word64) (ro : Len) (rr : Count) :
    (s.decodedTo words ro rr).rgbaOut.len = s.rgbaOut.len := rfl
@[simp] theorem State.decodedTo_rgbaOut_mem (s : State) (words : List Word64) (ro : Len) (rr : Count) :
    (s.decodedTo words ro rr).rgbaOut.mem =
      writeBytes s.rgbaOut.mem (32 * s.pipeBi.toNat) (words.flatMap (pairBytes s.config s.std)) := rfl

/-- RLD.READ does not look at what a batch writes. -/
theorem sameStream_decodedTo {t : State} {ro : Len} {rr : Count} (h : t.sameStream (s.withDecoder ro rr))
    (words : List Word64) : t.sameStream (s.decodedTo words ro rr) where
  ro := h.ro
  rr := h.rr
  len := h.len.trans (s.decodedTo_decLen words ro rr).symm
  comp := h.comp.trans (s.decodedTo_comp words ro rr).symm
  config := h.config.trans (s.decodedTo_config words ro rr).symm

/-- The bytes of a batch are those of INV.PAIR on its four words (R167, R168). -/
theorem batchBytes_invBatch (k : Config) (std : Standard) (w0 w1 w2 w3 : Word64) :
    batchBytes (invBatch k std w0 w1 w2 w3) = [w0, w1, w2, w3].flatMap (pairBytes k std) := by
  simp only [batchBytes, invBatch, pairBytes, List.flatMap_cons, List.flatMap_nil, List.append_assoc, List.append_nil]

theorem pairBytes_length (k : Config) (std : Standard) (w : Word64) : (pairBytes k std w).length = 8 := by
  rw [pairBytes, List.length_append, pixelBytes_length, pixelBytes_length]

theorem flatMap_pairBytes_length (k : Config) (std : Standard) (words : List Word64) :
    (words.flatMap (pairBytes k std)).length = 8 * words.length := by
  rw [List.length_flatMap, List.map_congr_left (fun w _ => pairBytes_length k std w), List.map_const',
    List.sum_replicate, smul_eq_mul, Nat.mul_comm]

theorem decodedTo_nil (s : State) : s.decodedTo [] s.decRo s.decRr = s := by
  rw [State.decodedTo, List.flatMap_nil, writeBytes, Buffer.withMem_self, List.length_nil, Nat.zero_div,
    BitVec.add_zero]
  rfl

/-- One batch: its 32 bytes are written and PIPE.BI counts it. -/
theorem decodedTo_batch (s : State) (ro : Len) (rr : Count) :
    s.decodedTo [w0, w1, w2, w3] ro rr =
      ((s.withDecoder ro rr).withRgbaOut (s.rgbaOut.withMem (writeBytes s.rgbaOut.mem (32 * s.pipeBi.toNat)
        (batchBytes (invBatch s.config s.std w0 w1 w2 w3))))).withPipeBi (s.pipeBi + 1) := by
  have hone : BitVec.ofNat 64 ([w0, w1, w2, w3].length / 4) = 1 :=
    congrArg (BitVec.ofNat 64) (Nat.div_self (n := 4) (by decide))
  rw [batchBytes_invBatch, State.decodedTo, hone]
  rfl

/-- Batches behind a batch. -/
theorem decodedTo_decodedTo {ro ro' : Len} {rr rr' : Count} {batch words : List Word64} (hbatch : batch.length = 4)
    (hbi : s.pipeBi.toNat + 1 < 2 ^ 64) :
    (s.decodedTo batch ro rr).decodedTo words ro' rr' = s.decodedTo (batch ++ words) ro' rr' := by
  have hnext : 32 * (s.pipeBi + BitVec.ofNat 64 (batch.length / 4)).toNat =
      32 * s.pipeBi.toNat + (batch.flatMap (pairBytes s.config s.std)).length := by
    rw [flatMap_pairBytes_length, hbatch, BitVec.toNat_add, BitVec.toNat_ofNat]
    omega
  have hcount : s.pipeBi + BitVec.ofNat 64 (batch.length / 4) + BitVec.ofNat 64 (words.length / 4) =
      s.pipeBi + BitVec.ofNat 64 ((batch ++ words).length / 4) := by
    rw [BitVec.add_assoc, ← BitVec.ofNat_add, List.length_append, hbatch, Nat.add_div_left _ (by decide),
      Nat.add_comm]
  simp only [State.decodedTo, State.withPipeBi_pipeBi, State.withPipeBi_config, State.withPipeBi_std,
    State.withPipeBi_rgbaOut, State.withDecoder_config, State.withDecoder_std, State.withDecoder_rgbaOut,
    State.withRgbaOut_config, State.withRgbaOut_std, State.withRgbaOut_rgbaOut, Buffer.withMem_mem,
    Buffer.withMem_withMem]
  rw [hnext, hcount, writeBytes_append, ← List.flatMap_append]
  rfl

section
variable {words : List Word64} {ro : Len} {rr : Count} (hwf : s.rgbaOut.mem.wf = true) (hbi : s.pipeBi = 0)
include hwf hbi

/-- From the first batch on, RGBA_OUT starts with the pixels of the words. -/
theorem readBytes_decodedTo :
    readBytes (s.decodedTo words ro rr).rgbaOut.mem 0 (8 * words.length) =
      words.flatMap (pairBytes s.config s.std) := by
  rw [State.decodedTo_rgbaOut_mem, hbi, ← flatMap_pairBytes_length s.config s.std]
  exact readBytes_writeBytes_same hwf 0 _

/-- Behind the batches RGBA_OUT is as before. -/
theorem readByte_decodedTo_behind {a : Nat} (ha : 8 * words.length ≤ a) :
    readByte (s.decodedTo words ro rr).rgbaOut.mem a = readByte s.rgbaOut.mem a := by
  rw [State.decodedTo_rgbaOut_mem, hbi]
  refine readByte_writeBytes_other hwf (.inr ?_)
  rw [flatMap_pairBytes_length]
  exact (Nat.zero_add _).trans_le ha

end

/-- One batch of DECODE, told by its reads (R257). -/
theorem decodeBatch_of_readsFrom (hss : s.sameStream s') {n : Nat} {vs : List (Option Word64)}
    (hreads : readsFrom (n + 4) s = some (some w0 :: some w1 :: some w2 :: some w3 :: vs, u))
    (hroom : 32 * (s'.pipeBi.toNat + 1) ≤ s'.rgbaOut.len.toNat) :
    ∃ t ro rr, decodeBatch s' = .ok (true, s'.decodedTo [w0, w1, w2, w3] ro rr) ∧
      t.sameStream (s'.decodedTo [w0, w1, w2, w3] ro rr) ∧ readsFrom n t = some (vs, u) := by
  obtain ⟨t, ro, rr, hfour, hss', hrest⟩ := readFour_of_readsFrom hss hreads
  refine ⟨t, ro, rr, ?_, sameStream_decodedTo hss' _, hrest⟩
  have hfits : 32 * s'.pipeBi.toNat + (batchBytes (invBatch s'.config s'.std w0 w1 w2 w3)).length ≤
      s'.rgbaOut.len.toNat := by
    rw [batchBytes_length]
    omega
  have hwrite := memWrite_ok (s := s'.withDecoder ro rr) (sp := .rgbaOut) |>.mpr ⟨hfits, rfl⟩
  rw [decodeBatch, hfour, ok_bind]
  dsimp only [State.withDecoder_pipeBi, State.withDecoder_config, State.withDecoder_std]
  rw [hwrite, ok_bind, pure_eq_ok, decodedTo_batch]
  rfl

/-- The batches of DECODE, told by their reads (R257). -/
theorem decodeBatches_of_readsFrom {n : Nat} {words : List Word64} (hss : s.sameStream s')
    (hreads : readsFrom (4 * n) s = some (words.map some, u))
    (hroom : 32 * (s'.pipeBi.toNat + n) ≤ s'.rgbaOut.len.toNat) :
    decodeBatches n s' = .ok (true, s'.decodedTo words u.decRo u.decRr) := by
  have hlen := readsFrom_length hreads
  rw [List.length_map] at hlen
  induction n generalizing s s' words with
  | zero =>
    obtain rfl := List.eq_nil_of_length_eq_zero hlen
    obtain rfl : s = u := (Prod.mk.inj (Option.some.inj hreads)).2
    rw [decodeBatches, hss.ro, hss.rr, decodedTo_nil]
  | succ n ih =>
    match words, hlen with
    | w0 :: w1 :: w2 :: w3 :: rest, hlen =>
      have hmax := s'.rgbaOut.len.isLt
      obtain ⟨t, ro, rr, hbatch, hss', hrest⟩ := decodeBatch_of_readsFrom hss hreads (by omega)
      have hbi : (s'.decodedTo [w0, w1, w2, w3] ro rr).pipeBi.toNat = s'.pipeBi.toNat + 1 := by
        have hone : (1 : Len).toNat = 1 := rfl
        rw [decodedTo_batch, State.withPipeBi_pipeBi, BitVec.toNat_add, hone]
        omega
      have hmore := ih hss' hrest (by rw [State.decodedTo_rgbaOut_len, hbi]; omega)
        (by simpa [Nat.mul_add] using hlen)
      rw [decodeBatches, hbatch, ok_bind]
      dsimp only
      rw [hmore, decodedTo_decodedTo rfl (by omega)]
      rfl

end

/-! ### The frame -/

/-- DECODE on a good descriptor, told by the reads of its stream: where they deliver a frame of words, it succeeds with
the pixels of these words in RGBA_OUT (R256, R257, R259). -/
theorem exec_decode_of_reads {s u : State} {w h : Dim} {inLen outCap : Len} {words : List Word64}
    (hw : w.toNat % 8 = 0) (hcap : outCap.toNat = frameBytes w h)
    (hreads : readsFrom (frameBytes w h / 8) (s.streamStart inLen) = some (words.map some, u)) :
    exec (.decode w h inLen outCap) s =
      .next (((decodeSetup h inLen outCap (s.startCall 0x51 w h inLen outCap)).decodedTo words u.decRo u.decRr).succeed
        outCap) := by
  have hbatches := frameBytes_batches hw (h := h)
  have hstart : (s.streamStart inLen).sameStream (decodeSetup h inLen outCap (s.startCall 0x51 w h inLen outCap)) :=
    ⟨rfl, rfl, rfl, rfl, rfl⟩
  have hroom : 32 * ((0 : Len).toNat + frameBytes w h / 32) ≤ outCap.toNat := by
    rw [hcap]
    show 32 * (0 + frameBytes w h / 32) ≤ frameBytes w h
    omega
  rw [show frameBytes w h / 8 = 4 * (frameBytes w h / 32) by omega] at hreads
  have hloop := decodeBatches_of_readsFrom hstart hreads hroom
  show execDecode w h inLen outCap s = _
  rw [execDecode, decodeCheck_none.mpr ⟨hw, hcap⟩]
  dsimp only
  rw [decodeFrame, hloop, ok_bind, ← hcap, BitVec.ofNat_toNat, BitVec.setWidth_eq]
  rfl

/-! ### A stream of literals -/

/-- Words that open no run record are delivered one after the other (R224). -/
theorem readsFrom_literals {s : State} {n : Nat} (hrr : s.decRr = 0) (hlen : s.decLen.toNat ≤ s.comp.len.toNat)
    (hroom : 8 * n ≤ s.remain) (hlit : ∀ k, k < n → wordIn s.comp.mem (s.decRo.toNat + 8 * k) ≠ marker) :
    ∃ r, readsFrom n s = some
      (((List.range n).map (fun k => wordIn s.comp.mem (s.decRo.toNat + 8 * k))).map some,
        (s.withDecoder (s.decRo + BitVec.ofNat 64 (8 * n)) 0).withResult r) := by
  induction n with
  | zero =>
    refine ⟨s.result, ?_⟩
    rw [Nat.mul_zero, ← hrr, BitVec.add_zero]
    rfl
  | succ n ih =>
    obtain ⟨r, hreads⟩ := ih (by omega) (fun k hk => hlit k (by omega))
    have hro : (s.decRo + BitVec.ofNat 64 (8 * n)).toNat = s.decRo.toNat + 8 * n := toNat_decRo_add (by omega)
    have hremain : (s.withDecoder (s.decRo + BitVec.ofNat 64 (8 * n)) 0).remain = s.remain - 8 * n :=
      remain_withDecoder_add (by omega) 0
    have hin := decRo_add_le hlen hroom (by omega)
    have hpassed : s.decRo + BitVec.ofNat 64 (8 * n) + 8 = s.decRo + BitVec.ofNat 64 (8 * (n + 1)) := by
      rw [Nat.mul_succ, BitVec.ofNat_add, BitVec.add_assoc]
      rfl
    have hread := exec_rldRead_literal (s := (s.withDecoder (s.decRo + BitVec.ofNat 64 (8 * n)) 0).withResult r) rfl
    simp only [State.withResult_remain, hremain, State.withResult_decRo, State.withDecoder_decRo, State.withResult_comp,
      State.withDecoder_comp, hro, hpassed] at hread
    rw [List.range_succ, List.map_append, List.map_append]
    exact ⟨_, readsFrom_concat hreads (hread (by omega) hin (.inr (hlit n (by omega)))) rfl⟩

/-- The first words of a stream, none of them MARKER, are delivered as they stand. -/
theorem readsFrom_streamStart_literals {s : State} {len : Len} {n : Nat} (hroom : 8 * n ≤ len.toNat)
    (hlit : ∀ k, k < n → wordIn s.comp.mem (8 * k) ≠ marker) :
    ∃ u, readsFrom n (s.streamStart len) =
      some (((List.range n).map (fun k => wordIn s.comp.mem (8 * k))).map some, u) := by
  have hword : ∀ k, wordIn (s.streamStart len).comp.mem ((s.streamStart len).decRo.toNat + 8 * k) =
      wordIn s.comp.mem (8 * k) := fun k => congrArg (wordIn s.comp.mem) (Nat.zero_add (8 * k))
  obtain ⟨r, hreads⟩ := readsFrom_literals (s := s.streamStart len) rfl le_rfl hroom
    (fun k hk => by rw [hword]; exact hlit k hk)
  simp only [hword] at hreads
  exact ⟨_, hreads⟩

/-- Settles O47: the literals are delivered (`readsFrom_streamStart_literals`), and DECODE converts what is delivered
(`exec_decode_of_reads`). -/
theorem decodeOfLiteralsFillsTheFrame : Obligations.DecodeOfLiteralsFillsTheFrame := by
  intro s w h inLen outCap hwf n hw hcap hlen hlit
  have hbatches : n = 32 * (n / 32) := frameBytes_batches hw
  obtain ⟨u, hreads⟩ := readsFrom_streamStart_literals (n := n / 8) (len := inLen) (by omega) hlit
  have hlength : 8 * ((List.range (n / 8)).map (fun k => wordIn s.comp.mem (8 * k))).length = n := by
    rw [List.length_map, List.length_range]
    omega
  refine ⟨_, exec_decode_of_reads hw hcap hreads, rfl, rfl, rfl, rfl, ?pixels, fun a ha => ?behind⟩
  case pixels =>
    have hpixels := readBytes_decodedTo (s := decodeSetup h inLen outCap (s.startCall 0x51 w h inLen outCap))
      (words := (List.range (n / 8)).map (fun k => wordIn s.comp.mem (8 * k))) (ro := u.decRo) (rr := u.decRr) hwf rfl
    rw [hlength] at hpixels
    exact hpixels
  case behind =>
    exact readByte_decodedTo_behind (s := decodeSetup h inLen outCap (s.startCall 0x51 w h inLen outCap))
      (ro := u.decRo) (rr := u.decRr) hwf rfl (hlength.trans_le ha)

end Sys2Proof.Machine

/-! ## The checks of the calls

ENCODE and DECODE check their descriptor before anything else: a check that fails writes STATUS and the descriptor, and
behind the checks stand `encodeFrame` and `decodeFrame`. -/

namespace Sys2Proof.Machine

section
variable {s : State} {w h : Dim} {inLen outCap : Len} {e : Failure}

/-- A check of ENCODE that fails ends the call (R281, R282, R286). -/
theorem exec_encode_of_failed (he : encodeCheck w h inLen outCap = some e) :
    exec (.encode w h inLen outCap) s = .next ((s.startCall 0x50 w h inLen outCap).raise e) := by
  show execEncode w h inLen outCap s = _
  rw [execEncode, he]

theorem exec_encode_of_passed (hpassed : encodeCheck w h inLen outCap = none) :
    exec (.encode w h inLen outCap) s =
      outcomeOf (encodeFrame w h inLen outCap (s.startCall 0x50 w h inLen outCap)) := by
  show execEncode w h inLen outCap s = _
  rw [execEncode, hpassed]

/-- A check of DECODE that fails ends the call (R281, R282, R286). -/
theorem exec_decode_of_failed (he : decodeCheck w h outCap = some e) :
    exec (.decode w h inLen outCap) s = .next ((s.startCall 0x51 w h inLen outCap).raise e) := by
  show execDecode w h inLen outCap s = _
  rw [execDecode, he]

theorem exec_decode_of_passed (hpassed : decodeCheck w h outCap = none) :
    exec (.decode w h inLen outCap) s =
      outcomeOf (decodeFrame w h inLen outCap (s.startCall 0x51 w h inLen outCap)) := by
  show execDecode w h inLen outCap s = _
  rw [execDecode, hpassed]

theorem encodeCheck_inLen (hw : w.toNat % 8 = 0) (hin : inLen.toNat ≠ frameBytes w h) :
    encodeCheck w h inLen outCap = some .bufferLengthMismatch := by
  rw [encodeCheck, if_neg (not_not_intro hw), if_pos hin]

theorem decodeCheck_outCap (hw : w.toNat % 8 = 0) (hcap : outCap.toNat ≠ frameBytes w h) :
    decodeCheck w h outCap = some .bufferLengthMismatch := by
  rw [decodeCheck, if_neg (not_not_intro hw), if_pos hcap]

end

end Sys2Proof.Machine

/-! ## ENCODE

A batch of ENCODE is four pushes (R252), each of which keeps the invariant `State.encodes`. So the words taken after `b`
batches are the first `4 * b` words of the frame, and RLE.FINISH leaves their stream: `exec_encode_of_good`. -/

namespace Sys2Proof.Machine

/-! ### The words of a frame -/

/-- The Word64 of SamplePair `k` of a buffer (R52, R252). -/
def pairWord (a : Arith) (std : Standard) (m : Memory) (k : Nat) : Word64 :=
  fwdPair a std (pixelIn m (8 * k)) (pixelIn m (8 * k + 4))

theorem frameWords_eq_map (a : Arith) (std : Standard) (m : Memory) (n : Nat) :
    frameWords a std m n = (List.range n).map (pairWord a std m) := rfl

@[simp] theorem frameWords_length (a : Arith) (std : Standard) (m : Memory) (n : Nat) :
    (frameWords a std m n).length = n := by
  rw [frameWords_eq_map, List.length_map, List.length_range]

/-- The four words of batch `b` of a buffer, in pair order (R52, R252). -/
def batchWords (a : Arith) (std : Standard) (m : Memory) (b : Nat) : List Word64 :=
  [pairWord a std m (4 * b), pairWord a std m (4 * b + 1), pairWord a std m (4 * b + 2), pairWord a std m (4 * b + 3)]

/-- A frame grows by a batch. -/
theorem frameWords_batch (a : Arith) (std : Standard) (m : Memory) (b : Nat) :
    frameWords a std m (4 * (b + 1)) = frameWords a std m (4 * b) ++ batchWords a std m b := by
  simp only [frameWords_eq_map, Nat.mul_succ, List.range_succ, List.map_append, List.map_cons, List.map_nil,
    List.append_assoc, List.cons_append, List.nil_append, batchWords]

theorem pixelAt_readBytes (m : Memory) (off : Nat) {n i : Nat} (hi : i + 4 ≤ n) :
    pixelAt (readBytes m off n) i = pixelIn m (off + i) := by
  simp only [pixelAt, byteAt]
  rw [readBytes_getD _ _ _ _ (by omega), readBytes_getD _ _ _ _ (by omega), readBytes_getD _ _ _ _ (by omega),
    readBytes_getD _ _ _ _ (by omega)]
  rfl

/-- FWD.BATCH on the 32 bytes of batch `b` gives the batch's words (R137, R252). -/
theorem fwdPairs_batchAt (a : Arith) (std : Standard) (m : Memory) (b : Nat) :
    let p := batchAt (readBytes m (32 * b) 32) 0
    [fwdPair a std p.p0 p.p1, fwdPair a std p.p2 p.p3, fwdPair a std p.p4 p.p5, fwdPair a std p.p6 p.p7] =
      batchWords a std m b := by
  have hpair : 8 * (4 * b) = 32 * b := by omega
  simp (disch := decide) only [batchAt, pixelAt_readBytes, batchWords, pairWord, Nat.mul_add, hpair]
  rfl

/-- No word of a frame is MARKER: FWD.PAIR leaves its top bits 0 (R92). -/
theorem marker_notMem_frameWords (a : Arith) (std : Standard) (m : Memory) (n : Nat) :
    marker ∉ frameWords a std m n := by
  intro hmem
  obtain ⟨k, -, hk⟩ := List.mem_map.mp hmem
  exact ne_marker_of_top (fwdPair_top_high a std _ _) hk

/-! ### What the encoder leaves alone -/

section
variable {s t : State} {n : Len}

theorem State.encoderMoved.comp_len (h : s.encoderMoved t n) : t.comp.len = s.comp.len := by rw [h.1]; rfl
theorem State.encoderMoved.rgbaIn (h : s.encoderMoved t n) : t.rgbaIn = s.rgbaIn := by rw [h.1]; rfl
theorem State.encoderMoved.config (h : s.encoderMoved t n) : t.config = s.config := by rw [h.1]; rfl
theorem State.encoderMoved.std (h : s.encoderMoved t n) : t.std = s.std := by rw [h.1]; rfl
theorem State.encoderMoved.pipeBi (h : s.encoderMoved t n) : t.pipeBi = n := by rw [h.1]; rfl

end

/-! ### Batches -/

section
variable {s : State} {m : Memory} {words : List Word64}

/-- A push that keeps the invariant moves the encoder and nothing else (R191). -/
theorem rlePush_encodes_moved (word : Word64) (h : s.encodes m words)
    (hroom : 8 * (words.length + 1) ≤ s.comp.len.toNat) :
    ∃ t, rlePush word s = .ok t ∧ t.encodes m (words ++ [word]) ∧ s.encoderMoved t s.pipeBi := by
  obtain ⟨t, hpush, ht⟩ := rlePush_encodes word h hroom
  exact ⟨t, hpush, ht, encoderMoved_push hpush⟩

/-- A batch takes its four words (R252). -/
theorem encodeBatch_encodes (h : s.encodes m words) (hin : 32 * (s.pipeBi.toNat + 1) ≤ s.rgbaIn.len.toNat)
    (hroom : 8 * (words.length + 4) ≤ s.comp.len.toNat) :
    ∃ t, encodeBatch s = .ok t ∧
      t.encodes m (words ++ batchWords s.config.arith s.std s.rgbaIn.mem s.pipeBi.toNat) := by
  have hread : memRead s .rgbaIn (32 * s.pipeBi.toNat) 32 = .ok _ := memRead_ok.mpr ⟨hin, rfl⟩
  have hwords := fwdPairs_batchAt s.config.arith s.std s.rgbaIn.mem s.pipeBi.toNat
  rw [State.buffer_rgbaIn] at hread
  unfold encodeBatch
  rw [hread, ok_bind, ← hwords]
  generalize batchAt _ 0 = p
  dsimp only
  obtain ⟨a, ha, ea, ma⟩ := rlePush_encodes_moved (fwdPair s.config.arith s.std p.p0 p.p1) h (by omega)
  obtain ⟨b, hb, eb, mb⟩ := rlePush_encodes_moved (fwdPair a.config.arith a.std p.p2 p.p3) ea
    (by rw [ma.comp_len]; simp; omega)
  replace mb := encoderMoved_trans ma mb
  obtain ⟨c, hc, ec, mc⟩ := rlePush_encodes_moved (fwdPair b.config.arith b.std p.p4 p.p5) eb
    (by rw [mb.comp_len]; simp; omega)
  replace mc := encoderMoved_trans mb mc
  obtain ⟨d, hd, ed, -⟩ := rlePush_encodes_moved (fwdPair c.config.arith c.std p.p6 p.p7) ec
    (by rw [mc.comp_len]; simp; omega)
  refine ⟨d.withPipeBi (d.pipeBi + 1), by simp only [ha, hb, hc, hd, ok_bind, pure_eq_ok], ?_⟩
  rw [ma.config, ma.std, mb.config, mb.std, mc.config, mc.std, List.append_assoc, List.append_assoc,
    List.append_assoc] at ed
  exact ed

/-- Batches from batch `k` on take the words of the frame up to their end (R252). -/
theorem encodeBatches_encodes {n k : Nat} (hbi : s.pipeBi.toNat = k)
    (h : s.encodes m (frameWords s.config.arith s.std s.rgbaIn.mem (4 * k)))
    (hin : 32 * (k + n) ≤ s.rgbaIn.len.toNat) (hroom : 32 * (k + n) ≤ s.comp.len.toNat) :
    ∃ t, encodeBatches n s = .ok t ∧ t.encodes m (frameWords s.config.arith s.std s.rgbaIn.mem (4 * (k + n))) ∧
      t.pipeBi.toNat = k + n := by
  induction n generalizing s k with
  | zero => exact ⟨s, rfl, h, hbi⟩
  | succ n ih =>
    obtain ⟨t, hbatch, ht⟩ := encodeBatch_encodes h (by omega) (by rw [frameWords_length]; omega)
    have hmoved := encodeBatch_frame hbatch
    have hlen := s.rgbaIn.len.isLt
    have hone : (1 : Len).toNat = 1 := rfl
    have hnext : t.pipeBi.toNat = k + 1 := by
      rw [hmoved.pipeBi, BitVec.toNat_add, hone, hbi]
      omega
    rw [hbi, ← frameWords_batch] at ht
    have hmore := ih hnext (by rwa [hmoved.config, hmoved.std, hmoved.rgbaIn])
      (by rw [hmoved.rgbaIn]; omega) (by rw [hmoved.comp_len]; omega)
    rwa [hmoved.config, hmoved.std, hmoved.rgbaIn, Nat.add_assoc, Nat.add_comm 1,
      ← show encodeBatches (n + 1) s = encodeBatches n t by rw [encodeBatches, hbatch, ok_bind]] at hmore

end

/-! ### The frame -/

/-- What ENCODE writes for a frame of `n` bytes: the stream of its words, under the profile of its height. -/
def State.frameStream (s : State) (h : Dim) (n : Nat) : List Byte :=
  streamOf (frameWords s.config.arith (standardOf h) s.rgbaIn.mem (n / 8))

/-- The state ENCODE leaves behind on a good descriptor, whatever ENC.LW is then (R251 to R253). -/
def State.encoded (s : State) (w h : Dim) (inLen outCap : Len) (lw : Word64) : State :=
  let stream := s.frameStream h (frameBytes w h)
  let length := BitVec.ofNat 64 stream.length
  ((((((((s.startCall 0x50 w h inLen outCap).withRgbaIn (s.rgbaIn.withLen inLen)).withComp
    ((s.comp.withLen outCap).withMem (writeBytes s.comp.mem 0 stream))).withStd (standardOf h)).withEncoder lw 0
    length).withPipeBi (BitVec.ofNat 64 (frameBytes w h / 32))).withEncFinished true).withStatus 0 length)

section
variable (s : State) (w h : Dim) (inLen outCap : Len) (lw : Word64)

@[simp] theorem State.encoded_statusErr : (s.encoded w h inLen outCap lw).statusErr = 0 := rfl
@[simp] theorem State.encoded_statusOutLen :
    (s.encoded w h inLen outCap lw).statusOutLen = BitVec.ofNat 64 (s.frameStream h (frameBytes w h)).length := rfl
@[simp] theorem State.encoded_comp_mem :
    (s.encoded w h inLen outCap lw).comp.mem = writeBytes s.comp.mem 0 (s.frameStream h (frameBytes w h)) := rfl
@[simp] theorem State.encoded_rgbaIn : (s.encoded w h inLen outCap lw).rgbaIn = s.rgbaIn.withLen inLen := rfl
@[simp] theorem State.encoded_rgbaOut : (s.encoded w h inLen outCap lw).rgbaOut = s.rgbaOut := rfl
@[simp] theorem State.encoded_config : (s.encoded w h inLen outCap lw).config = s.config := rfl

end

section
variable {s : State} {w h : Dim} {inLen outCap : Len}

/-- ENCODE after its checks writes the stream of the frame (R251 to R253). -/
theorem encodeFrame_of_good (hw : w.toNat % 8 = 0) (hin : inLen.toNat = frameBytes w h)
    (hcap : frameBytes w h ≤ outCap.toNat) :
    ∃ t, encodeFrame w h inLen outCap s = .ok t ∧
      t.comp.mem = writeBytes s.comp.mem 0 (s.frameStream h (frameBytes w h)) ∧
      t.encWc = BitVec.ofNat 64 (s.frameStream h (frameBytes w h)).length ∧
      t.pipeBi = BitVec.ofNat 64 (frameBytes w h / 32) := by
  have hbatches := frameBytes_batches hw (h := h)
  have hstart : (encodeSetup h inLen outCap s).encodes s.comp.mem [] := encodes_nil rfl rfl
  obtain ⟨t, hloop, ht, hbi⟩ := encodeBatches_encodes (n := frameBytes w h / 32) (k := 0)
    (s := encodeSetup h inLen outCap s) rfl hstart
    (by show 32 * (0 + frameBytes w h / 32) ≤ inLen.toNat; omega)
    (by show 32 * (0 + frameBytes w h / 32) ≤ outCap.toNat; omega)
  have hmoved := encodeBatches_frame hloop
  rw [Nat.zero_add] at ht hbi
  rw [show 4 * (frameBytes w h / 32) = frameBytes w h / 8 by omega] at ht
  have hfinish := rleFinish_encodes ht (by
    rw [hmoved.comp_len, frameWords_length]
    show 8 * (frameBytes w h / 8) ≤ outCap.toNat
    omega)
  refine ⟨_, by rw [encodeFrame, hloop, ok_bind, hfinish]; rfl, rfl, rfl, ?_⟩
  rw [← hbi, BitVec.ofNat_toNat, BitVec.setWidth_eq]
  rfl

/-- ENCODE on a good descriptor succeeds (R250 to R253). -/
theorem exec_encode_of_good (hw : w.toNat % 8 = 0) (hin : inLen.toNat = frameBytes w h)
    (hcap : frameBytes w h ≤ outCap.toNat) :
    ∃ lw, exec (.encode w h inLen outCap) s = .next (s.encoded w h inLen outCap lw) := by
  obtain ⟨t, hframe, hmem, hwc, hbi⟩ := encodeFrame_of_good (s := s.startCall 0x50 w h inLen outCap) hw hin hcap
  refine ⟨t.encLw, ?_⟩
  rw [exec_encode_of_passed (encodeCheck_none.mpr ⟨hw, hin, hcap⟩), hframe, outcomeOf_ok,
    (encodeFrame_frame hframe).1, hmem, hwc, hbi]
  rfl

/-- The stream of a frame takes at most as many bytes as the frame (R254). -/
theorem frameStream_length_le (hw : w.toNat % 8 = 0) :
    (s.frameStream h (frameBytes w h)).length ≤ frameBytes w h := by
  have hbatches := frameBytes_batches hw (h := h)
  have hlen := streamOf_length_le (frameWords s.config.arith (standardOf h) s.rgbaIn.mem (frameBytes w h / 8))
  rw [frameWords_length] at hlen
  exact hlen.trans (by omega)

end

/-- Settles O44: `State.encoded` is the state named. -/
theorem encodeWritesTheStreamOfTheFrame : Obligations.EncodeWritesTheStreamOfTheFrame := by
  intro s w h inLen outCap hwf n hw hin hcap std stream
  obtain ⟨lw, hexec⟩ := exec_encode_of_good (s := s) hw hin hcap
  exact ⟨lw, writeBytes s.comp.mem 0 stream, hexec, frameStream_length_le hw, readBytes_writeBytes_same hwf 0 stream,
    fun a ha => readByte_writeBytes_other hwf (.inr (by omega))⟩

/-! ### The size of the output -/

theorem le_runCost (n : Nat) : min 24 (8 * n) ≤ runCost n := by
  unfold runCost
  split <;> omega

/-- Runs cost 24 bytes together, or 8 bytes a word if that is less. -/
theorem le_sum_runCost (runs : List (Word64 × Nat)) :
    min 24 (8 * (runs.map Prod.snd).sum) ≤ (runs.map (fun run => runCost run.2)).sum := by
  induction runs with
  | nil => simp
  | cons run runs ih =>
    have hrun := le_runCost run.2
    rw [List.map_cons, List.sum_cons, List.map_cons, List.sum_cons]
    omega

/-- The stream of three words or more takes at least 24 bytes (R254). -/
theorem le_streamOf_length {words : List Word64} (h : 3 ≤ words.length) : 24 ≤ (streamOf words).length := by
  have hsum := le_sum_runCost (runsOf words)
  rw [sum_runLengths, ← streamOf_length] at hsum
  omega

section
variable {s : State} {w h : Dim} {inLen outCap : Len}

theorem toNat_statusOutLen_encoded (hw : w.toNat % 8 = 0) (hin : inLen.toNat = frameBytes w h) (lw : Word64) :
    (s.encoded w h inLen outCap lw).statusOutLen.toNat = (s.frameStream h (frameBytes w h)).length := by
  have hlen := frameStream_length_le hw (s := s) (h := h)
  have hmax := inLen.isLt
  rw [State.encoded_statusOutLen, BitVec.toNat_ofNat, Nat.mod_eq_of_lt (by omega)]

end

/-- Settles O45: the stream of O44 by its length. -/
theorem encodeOutputIsBounded : Obligations.EncodeOutputIsBounded := by
  intro s w h inLen outCap hwf n hw hin hcap
  have hbatches : n = 32 * (n / 32) := frameBytes_batches hw
  have hle : (s.frameStream h n).length ≤ n := frameStream_length_le hw
  have hwords : 8 * (frameWords s.config.arith (standardOf h) s.rgbaIn.mem (n / 8)).length = n := by
    rw [frameWords_length]
    omega
  obtain ⟨lw, hexec⟩ := exec_encode_of_good (s := s) hw hin hcap
  have hout : (s.encoded w h inLen outCap lw).statusOutLen.toNat = (s.frameStream h n).length :=
    toNat_statusOutLen_encoded hw hin lw
  refine ⟨_, hexec, rfl, hout.trans_le hle, ?reached, fun hn => ?atLeast, fun a ha => ?behind⟩
  case reached =>
    have hiff := streamOf_length_eq_iff (frameWords s.config.arith (standardOf h) s.rgbaIn.mem (n / 8))
    rw [hwords] at hiff
    rw [hout]
    exact hiff
  case atLeast =>
    rw [hout]
    exact le_streamOf_length (by omega)
  case behind => exact readByte_writeBytes_other hwf (.inr (by rw [Nat.zero_add]; exact hle.trans ha))

/-! ### What ENCODE does not look at -/

/-- Settles O52: a failed check looks at the operands only, and `State.encoded` takes its STATUS and COMP from RGBA_IN,
COMP and ARITH. -/
theorem encodeForgetsEarlierCalls : Obligations.EncodeForgetsEarlierCalls := by
  intro s s' t w h inLen outCap hrgba hcomp harith hexec
  cases hcheck : encodeCheck w h inLen outCap with
  | some e =>
    rw [exec_encode_of_failed hcheck] at hexec
    obtain rfl := Host.Outcome.next.inj hexec
    exact ⟨_, exec_encode_of_failed hcheck, rfl, rfl, hcomp.symm⟩
  | none =>
    obtain ⟨hw, hin, hcap⟩ := encodeCheck_none.mp hcheck
    obtain ⟨lw, hgood⟩ := exec_encode_of_good (s := s) hw hin hcap
    obtain ⟨lw', hgood'⟩ := exec_encode_of_good (s := s') hw hin hcap
    obtain rfl := Host.Outcome.next.inj (hgood.symm.trans hexec)
    have hstream : s'.frameStream h (frameBytes w h) = s.frameStream h (frameBytes w h) := by
      rw [State.frameStream, State.frameStream, hrgba, harith]
    refine ⟨_, hgood', ?_⟩
    rw [State.encoded_statusErr, State.encoded_statusErr, State.encoded_statusOutLen, State.encoded_statusOutLen,
      State.encoded_comp_mem, State.encoded_comp_mem, hstream, hcomp]
    exact ⟨rfl, rfl, rfl⟩

end Sys2Proof.Machine

/-! ## DECODE at the end of its stream

`exec_decode_of_reads` tells of a DECODE whose reads all deliver. Where one of them is at the end of the stream, the
batches before that read are written, and the call fails (R258): `exec_decode_of_end`. -/

namespace Sys2Proof.Machine

section
variable {s s' u : State} {words : List Word64} {vs : List (Option Word64)}

/-- Four reads of which one is at the end of the stream; the reads before it have delivered `words` (R258). -/
theorem readFour_of_end (hss : s.sameStream s') {k : Nat}
    (hreads : readsFrom k s = some (words.map some ++ none :: vs, u)) (hshort : words.length < 4) :
    ∃ ro rr, readFour s' = .ok (none, s'.withDecoder ro rr) := by
  obtain rfl : _ = k := readsFrom_length hreads
  match words with
  | [] =>
    obtain ⟨_, ro, rr, h1, -⟩ := rldRead_of_readsFrom hss hreads
    exact ⟨ro, rr, by rw [readFour, h1]; rfl⟩
  | w0 :: words =>
  obtain ⟨_, ro1, rr1, h1, hss1, hreads⟩ := rldRead_of_readsFrom hss hreads
  match words with
  | [] =>
    obtain ⟨_, ro, rr, h2, -⟩ := rldRead_of_readsFrom hss1 hreads
    exact ⟨ro, rr, by simp only [readFour, h1, h2, ok_bind]; rfl⟩
  | w1 :: words =>
  obtain ⟨_, ro2, rr2, h2, hss2, hreads⟩ := rldRead_of_readsFrom hss1 hreads
  match words with
  | [] =>
    obtain ⟨_, ro, rr, h3, -⟩ := rldRead_of_readsFrom hss2 hreads
    exact ⟨ro, rr, by simp only [readFour, h1, h2, h3, ok_bind]; rfl⟩
  | w2 :: words =>
  obtain ⟨_, ro3, rr3, h3, hss3, hreads⟩ := rldRead_of_readsFrom hss2 hreads
  match words, hshort with
  | [], _ =>
    obtain ⟨_, ro, rr, h4, -⟩ := rldRead_of_readsFrom hss3 hreads
    exact ⟨ro, rr, by simp only [readFour, h1, h2, h3, h4, ok_bind]; rfl⟩

/-- The batches of DECODE up to the read at the end of the stream: `whole` are the words of the batches before it, and
its own batch writes nothing (R258). -/
theorem decodeBatches_of_end {n k : Nat} (hss : s.sameStream s')
    (hreads : readsFrom k s = some (words.map some ++ none :: vs, u)) (hshort : words.length < 4 * n)
    (hroom : 32 * (s'.pipeBi.toNat + n) ≤ s'.rgbaOut.len.toNat) :
    ∃ whole ro rr, decodeBatches n s' = .ok (false, s'.decodedTo whole ro rr) ∧ whole.length ≤ words.length := by
  have hk := readsFrom_length hreads
  induction n generalizing s s' words k with
  | zero => omega
  | succ n ih =>
    by_cases hfour : words.length < 4
    case pos =>
      obtain ⟨ro, rr, hnone⟩ := readFour_of_end hss hreads hfour
      refine ⟨[], ro, rr, ?_, Nat.zero_le _⟩
      rw [decodeBatches, decodeBatch, hnone]
      exact congrArg (fun t => Except.ok (false, t)) (decodedTo_nil (s'.withDecoder ro rr)).symm
    case neg =>
      match words, hfour with
      | [], hfour | [_], hfour | [_, _], hfour | [_, _, _], hfour => exact absurd (by simp) hfour
      | w0 :: w1 :: w2 :: w3 :: rest, _ =>
        subst hk
        have hmax := s'.rgbaOut.len.isLt
        obtain ⟨t, ro, rr, hbatch, hss', hrest⟩ := decodeBatch_of_readsFrom hss hreads (by omega)
        have hbi : (s'.decodedTo [w0, w1, w2, w3] ro rr).pipeBi.toNat = s'.pipeBi.toNat + 1 := by
          have hone : (1 : Len).toNat = 1 := rfl
          rw [decodedTo_batch, State.withPipeBi_pipeBi, BitVec.toNat_add, hone]
          omega
        obtain ⟨whole, ro', rr', hmore, hwhole⟩ := ih hss' hrest (by simp only [List.length_cons] at hshort; omega)
          (by rw [State.decodedTo_rgbaOut_len, hbi]; omega) rfl
        refine ⟨[w0, w1, w2, w3] ++ whole, ro', rr', ?_, by simpa using hwhole⟩
        rw [decodeBatches, hbatch, ok_bind]
        dsimp only
        rw [hmore, decodedTo_decodedTo rfl (by omega)]

end

/-! ### The frame -/

/-- Some read among the next `n` is at the end of the stream. -/
def State.runsOutWithin (s : State) (n : Nat) : Prop :=
  ∃ k vs u, k ≤ n ∧ readsFrom k s = some (vs, u) ∧ none ∈ vs

/-- The words delivered before the first read at the end of the stream. -/
theorem exists_words_of_none_mem {vs : List (Option Word64)} (h : none ∈ vs) :
    ∃ (words : List Word64) (rest : List (Option Word64)), vs = words.map some ++ none :: rest := by
  induction vs with
  | nil => nomatch h
  | cons v vs ih =>
    cases v with
    | none => exact ⟨[], vs, rfl⟩
    | some w =>
      obtain ⟨words, rest, rfl⟩ := ih ((List.mem_cons.mp h).resolve_left nofun)
      exact ⟨w :: words, rest, rfl⟩

/-- DECODE on a good descriptor fails where a read that it needs is at the end of the stream; whole batches before that
read are in RGBA_OUT, nothing else is (R258, R283, R286). -/
theorem exec_decode_of_end {s : State} {w h : Dim} {inLen outCap : Len} (hw : w.toNat % 8 = 0)
    (hcap : outCap.toNat = frameBytes w h) (hend : (s.streamStart inLen).runsOutWithin (frameBytes w h / 8)) :
    ∃ whole ro rr, exec (.decode w h inLen outCap) s =
      .next (((decodeSetup h inLen outCap (s.startCall 0x51 w h inLen outCap)).decodedTo whole ro rr).raise
        .insufficientCompressedData) ∧ 8 * whole.length ≤ frameBytes w h := by
  obtain ⟨k, vs, u, hk, hreads, hnone⟩ := hend
  obtain ⟨words, rest, rfl⟩ := exists_words_of_none_mem hnone
  have hbatches := frameBytes_batches hw (h := h)
  have hcount := readsFrom_length hreads
  rw [List.length_append, List.length_map, List.length_cons] at hcount
  have hstart : (s.streamStart inLen).sameStream (decodeSetup h inLen outCap (s.startCall 0x51 w h inLen outCap)) :=
    ⟨rfl, rfl, rfl, rfl, rfl⟩
  have hroom : 32 * ((0 : Len).toNat + frameBytes w h / 32) ≤ outCap.toNat := by
    rw [hcap]
    show 32 * (0 + frameBytes w h / 32) ≤ frameBytes w h
    omega
  obtain ⟨whole, ro, rr, hloop, hwhole⟩ :=
    decodeBatches_of_end hstart hreads (n := frameBytes w h / 32) (by omega) hroom
  refine ⟨whole, ro, rr, ?_, by omega⟩
  rw [exec_decode_of_passed (decodeCheck_none.mpr ⟨hw, hcap⟩), decodeFrame, hloop, ok_bind]
  rfl

/-- A frame decoded from its start on: RGBA_OUT holds the pixels of its words from offset 0 (R257). -/
theorem decodedFrame_rgbaOut_mem (s : State) (w h : Dim) (inLen outCap : Len) (words : List Word64) (ro : Len)
    (rr : Count) :
    ((decodeSetup h inLen outCap (s.startCall 0x51 w h inLen outCap)).decodedTo words ro rr).rgbaOut.mem =
      writeBytes s.rgbaOut.mem 0 (words.flatMap (pairBytes s.config (standardOf h))) := rfl

section
variable {m : Memory} {k : Config} {std : Standard} {words : List Word64} (hwf : m.wf = true)
include hwf

theorem readBytes_writePixels :
    readBytes (writeBytes m 0 (words.flatMap (pairBytes k std))) 0 (8 * words.length) =
      words.flatMap (pairBytes k std) := by
  rw [← flatMap_pairBytes_length k std words]
  exact readBytes_writeBytes_same hwf 0 _

theorem readByte_writePixels_behind {a : Nat} (ha : 8 * words.length ≤ a) :
    readByte (writeBytes m 0 (words.flatMap (pairBytes k std))) a = readByte m a :=
  readByte_writeBytes_other hwf (.inr (by rwa [flatMap_pairBytes_length, Nat.zero_add]))

end

/-- Settles O46: the state that `exec_decode_of_reads` gives. -/
theorem decodeConvertsTheWordsItReads : Obligations.DecodeConvertsTheWordsItReads := by
  intro s u w h inLen outCap words hwf n hw hcap hreads std
  have hbatches : n = 32 * (n / 32) := frameBytes_batches hw
  have hcount : words.length = n / 8 := by rw [← readsFrom_length hreads, List.length_map]
  have hwords : 8 * words.length = n := by omega
  have hbi : (0 : Len) + BitVec.ofNat 64 (words.length / 4) = BitVec.ofNat 64 (n / 32) := by
    rw [show words.length / 4 = n / 32 by omega]
    exact BitVec.zero_add _
  refine ⟨writeBytes s.rgbaOut.mem 0 (words.flatMap (pairBytes s.config std)), ?next, ?pixels, fun a ha => ?behind⟩
  case next =>
    rw [exec_decode_of_reads hw hcap hreads, ← hbi]
    rfl
  case pixels =>
    rw [← hwords]
    exact readBytes_writePixels hwf
  case behind => exact readByte_writePixels_behind hwf (hwords.trans_le ha)

/-- Settles O48: the state that `exec_decode_of_end` gives. -/
theorem decodeFailsAtTheEndOfTheStream : Obligations.DecodeFailsAtTheEndOfTheStream := by
  intro s u w h inLen outCap k vs hwf n hw hcap hreads hk hnone
  obtain ⟨whole, ro, rr, hexec, hwhole⟩ := exec_decode_of_end (s := s) hw hcap ⟨k, vs, u, hk, hreads, hnone⟩
  refine ⟨_, hexec, rfl, rfl, rfl, rfl, fun a ha => ?_⟩
  rw [raise_eq, State.withStatus_rgbaOut, decodedFrame_rgbaOut_mem]
  exact readByte_writePixels_behind hwf (hwhole.trans ha)

end Sys2Proof.Machine

/-! ## DECODE of what ENCODE wrote

The whole stream delivers the words of the frame (`decodes_streamOf`), and every record of it is needed: from any
shorter beginning of it the reads of the frame run out (R262). That property, too, is proved record by record. -/

namespace Sys2Proof.Machine

/-! ### Shortened bytes -/

theorem State.runsOutWithin.mono {s : State} {n n' : Nat} (h : s.runsOutWithin n) (hn : n ≤ n') :
    s.runsOutWithin n' := by
  obtain ⟨k, vs, u, hk, hreads, hnone⟩ := h
  exact ⟨k, vs, u, hk.trans hn, hreads, hnone⟩

/-- Reads that deliver come before the one at the end of the stream. -/
theorem runsOutWithin_of_reads {s t : State} {j n : Nat} {vs : List (Option Word64)}
    (hreads : readsFrom j s = some (vs, t)) (h : t.runsOutWithin n) : s.runsOutWithin (j + n) := by
  obtain ⟨k, ws, u, hk, hmore, hnone⟩ := h
  exact ⟨j + k, vs ++ ws, u, by omega, readsFrom_add hreads hmore, List.mem_append_right vs hnone⟩

/-- Fewer bytes than a run record takes are read as literals, whatever they are, up to their end (R223, R224). -/
theorem runsOutWithin_of_short {s : State} {bytes : List Byte} {n : Nat} (hs : s.atBoundary bytes)
    (hshort : bytes.length < 8 * n) (hn : n ≤ 3) : s.runsOutWithin n := by
  induction n generalizing s bytes with
  | zero => omega
  | succ n ih =>
    obtain ⟨hrr, hlen, hunread⟩ := hs
    have hremain := unread_length s
    rw [hunread] at hremain
    by_cases h8 : s.remain < 8
    case pos =>
      exact ⟨1, _, _, by omega, readsFrom_one (exec_rldRead_end h8) rfl, by simp⟩
    case neg =>
      have hread := exec_rldRead_literal hrr (by omega) (decRo_add_le hlen (n := 8) (by omega) (by decide))
        (.inl (by omega))
      have hsplit : s.unread = bytes.take 8 ++ bytes.drop 8 := by rw [List.take_append_drop, hunread]
      have hnext := atBoundary_withDecoder_add hlen hsplit
      rw [List.length_take_of_le (by omega)] at hnext
      rw [hrr] at hread
      rw [Nat.add_comm]
      refine runsOutWithin_of_reads (readsFrom_one hread rfl) (ih (bytes := bytes.drop 8) hnext ?_ (by omega))
      rw [List.length_drop]
      omega

/-- Read from a record boundary, a beginning of `bytes` that is not all of them does not last for `words`. -/
def RunsOut (bytes : List Byte) (words : List Word64) : Prop :=
  ∀ (s : State) (short : Nat), short < bytes.length → s.atBoundary (bytes.take short) → s.runsOutWithin words.length

theorem runsOut_nil : RunsOut [] [] := fun _ _ hshort => nomatch hshort

/-- The cut is in the first part, or the first part is read whole and the cut is in the second. -/
theorem RunsOut.append {xs ys : List Byte} {vs ws : List Word64} (hx : RunsOut xs vs) (hxs : Decodes xs vs)
    (hy : RunsOut ys ws) : RunsOut (xs ++ ys) (vs ++ ws) := by
  intro s short hshort hs
  rw [List.length_append] at hshort ⊢
  by_cases hcut : short < xs.length
  case pos =>
    rw [List.take_append_of_le_length hcut.le] at hs
    exact (hx s short hcut hs).mono (Nat.le_add_right _ _)
  case neg =>
    rw [List.take_append, List.take_of_length_le (by omega)] at hs
    obtain ⟨t, hreads, ht⟩ := hxs s _ hs
    exact runsOutWithin_of_reads hreads (hy t _ (by omega) ht)

/-- All records of one run are needed: up to three words are as many literals, and a run record, which takes the bytes
of three words, stands for at least four (R192). -/
theorem runsOut_runRecords (v : Word64) (n : Nat) :
    RunsOut (recordsBytes (runRecords v n)) (List.replicate n v) := by
  intro s short hshort hs
  have hcost : (recordsBytes (runRecords v n)).length = 8 * min n 3 := by
    rw [recordsBytes_runRecords_length, runCost]
    split <;> omega
  have hcut : ((recordsBytes (runRecords v n)).take short).length < 8 * min n 3 := by
    rw [List.length_take]
    omega
  rw [List.length_replicate]
  exact (runsOutWithin_of_short hs hcut (Nat.min_le_right n 3)).mono (Nat.min_le_left n 3)

theorem runsOut_runs {runs : List (Word64 × Nat)} (h : ∀ run ∈ runs, run.1 ≠ marker ∧ run.2 < 2 ^ 64) :
    RunsOut (runs.flatMap (fun run => recordsBytes (runRecords run.1 run.2)))
      (runs.flatMap (fun run => List.replicate run.2 run.1)) := by
  induction runs with
  | nil => exact runsOut_nil
  | cons run runs ih =>
    obtain ⟨⟨hv, hn⟩, hruns⟩ := List.forall_mem_cons.mp h
    exact (runsOut_runRecords run.1 run.2).append (decodes_runRecords hv hn) (ih hruns)

/-- No record of the stream of a sequence can be spared (R229, R262). -/
theorem runsOut_streamOf {words : List Word64} (hm : marker ∉ words) (hlen : words.length < 2 ^ 64) :
    RunsOut (streamOf words) words := by
  have hruns := runsOut_runs (runs := runsOf words) (fun run hrun =>
    ⟨fun h => hm (h ▸ mem_of_mem_runsOf hrun), Nat.lt_of_le_of_lt (length_le_of_mem_runsOf hrun) hlen⟩)
  rwa [runsOf_concat] at hruns

/-! ### Frames -/

/-- DECODE starts at the first of the bytes that its IN_LEN covers (R220, R256). -/
theorem atBoundary_streamStart (s : State) (n : Len) :
    (s.streamStart n).atBoundary (readBytes s.comp.mem 0 n.toNat) :=
  ⟨rfl, le_rfl, rfl⟩

theorem take_readBytes (m : Memory) (a : Nat) {k n : Nat} (h : k ≤ n) : (readBytes m a n).take k = readBytes m a k := by
  obtain ⟨d, rfl⟩ := Nat.exists_eq_add_of_le h
  rw [readBytes_append, List.take_left' (readBytes_length m a k)]

section
variable {s t : State} {w h : Dim} {inLen outCap : Len}

theorem frameWords_length_lt (hin : inLen.toNat = frameBytes w h) (a : Arith) (std : Standard) (m : Memory) :
    (frameWords a std m (frameBytes w h / 8)).length < 2 ^ 64 := by
  have hmax := inLen.isLt
  rw [frameWords_length]
  omega

section
variable (hwf : s.comp.mem.wf = true) (hw : w.toNat % 8 = 0) (hin : inLen.toNat = frameBytes w h) {lw : Word64}
include hwf hw hin

/-- What ENCODE reports as its output is the stream of the frame (R253). -/
theorem readBytes_encoded :
    readBytes (s.encoded w h inLen outCap lw).comp.mem 0 (s.encoded w h inLen outCap lw).statusOutLen.toNat =
      s.frameStream h (frameBytes w h) := by
  rw [toNat_statusOutLen_encoded hw hin, State.encoded_comp_mem, readBytes_writeBytes_same hwf]

/-- From all of it, DECODE's reads deliver the words of the frame (R201, R262). -/
theorem readsFrom_encoded :
    ∃ u, readsFrom (frameBytes w h / 8)
        ((s.encoded w h inLen outCap lw).streamStart (s.encoded w h inLen outCap lw).statusOutLen) =
      some ((frameWords s.config.arith (standardOf h) s.rgbaIn.mem (frameBytes w h / 8)).map some, u) := by
  have hdecodes := decodes_streamOf (marker_notMem_frameWords s.config.arith (standardOf h) s.rgbaIn.mem _)
    (frameWords_length_lt hin _ _ _)
  have hstart := atBoundary_streamStart (s.encoded w h inLen outCap lw) (s.encoded w h inLen outCap lw).statusOutLen
  rw [readBytes_encoded hwf hw hin, ← List.append_nil (s.frameStream h _)] at hstart
  obtain ⟨u, hreads, -⟩ := hdecodes _ _ hstart
  rw [frameWords_length] at hreads
  exact ⟨u, hreads⟩

/-- From less of it, DECODE's reads run out (R262). -/
theorem runsOutWithin_encoded {short : Len}
    (hshort : short.toNat < (s.encoded w h inLen outCap lw).statusOutLen.toNat) :
    ((s.encoded w h inLen outCap lw).streamStart short).runsOutWithin (frameBytes w h / 8) := by
  have hruns := runsOut_streamOf (marker_notMem_frameWords s.config.arith (standardOf h) s.rgbaIn.mem _)
    (frameWords_length_lt hin _ _ _)
  have hstart := atBoundary_streamStart (s.encoded w h inLen outCap lw) short
  rw [← take_readBytes _ 0 hshort.le, readBytes_encoded hwf hw hin] at hstart
  rw [toNat_statusOutLen_encoded hw hin] at hshort
  have hout := hruns _ _ hshort hstart
  rwa [frameWords_length] at hout

end

/-- An ENCODE on a good descriptor that has a next state left `State.encoded`. -/
theorem encoded_of_exec (hw : w.toNat % 8 = 0) (hin : inLen.toNat = frameBytes w h)
    (hcap : frameBytes w h ≤ outCap.toNat) (hexec : exec (.encode w h inLen outCap) s = .next t) :
    ∃ lw, t = s.encoded w h inLen outCap lw := by
  obtain ⟨lw, hgood⟩ := exec_encode_of_good (s := s) hw hin hcap
  exact ⟨lw, Host.Outcome.next.inj (hexec.symm.trans hgood)⟩

end

/-- Settles O49: DECODE reads the words of the frame, and ENCODE left RGBA_IN, RGBA_OUT and the parameters alone. -/
theorem frameRoundTripLosesOnlyInConversion : Obligations.FrameRoundTripLosesOnlyInConversion := by
  intro s t w h inLen outCap hcomp hwf n hw hin hcap hexec std
  obtain ⟨lw, rfl⟩ := encoded_of_exec hw hin hcap hexec
  have hbatches : n = 32 * (n / 32) := frameBytes_batches hw
  have hwords : 8 * (frameWords s.config.arith std s.rgbaIn.mem (n / 8)).length = n := by
    rw [frameWords_length]
    omega
  obtain ⟨u, hreads⟩ := readsFrom_encoded (outCap := outCap) (lw := lw) hcomp hw hin
  refine ⟨_, exec_decode_of_reads hw hin hreads, rfl, rfl, rfl, ?_⟩
  rw [succeed_eq, State.withStatus_rgbaOut, decodedFrame_rgbaOut_mem, State.encoded_rgbaOut, State.encoded_config]
  have hpixels := readBytes_writePixels (k := s.config) (std := std)
    (words := frameWords s.config.arith std s.rgbaIn.mem (n / 8)) hwf
  rwa [hwords] at hpixels

/-- Settles O50: the reads of the frame run out, so DECODE fails. -/
theorem shortenedStreamRunsOut : Obligations.ShortenedStreamRunsOut := by
  intro s t w h inLen outCap short hwf n hw hin hcap hexec hshort
  obtain ⟨lw, rfl⟩ := encoded_of_exec hw hin hcap hexec
  obtain ⟨whole, ro, rr, hfailed, -⟩ := exec_decode_of_end hw hin (runsOutWithin_encoded hwf hw hin hshort)
  exact ⟨_, hfailed, rfl, rfl⟩

end Sys2Proof.Machine

/-! ## What DECODE does not look at

`State.sameFrame` relates states that DECODE's loop cannot tell apart, and `Alike` carries it through the steps of the
loop. The set-up of DECODE gives every register the loop looks at a value of its own (R256, R261). -/

namespace Sys2Proof.Machine

/-- Nothing that DECODE's loop looks at tells `s` from `t`. -/
structure State.sameFrame (s t : State) : Prop extends State.sameStream s t where
  std : s.std = t.std
  bi : s.pipeBi = t.pipeBi
  rgbaOut : s.rgbaOut = t.rgbaOut

/-- Where `x` answers, `y` answers the same, with a state that DECODE's loop cannot tell apart. -/
def Alike {α : Type} (x y : Except Refusal (α × State)) : Prop :=
  ∀ a t, x = .ok (a, t) → ∃ t', y = .ok (a, t') ∧ t.sameFrame t'

section
variable {α β : Type} {s s' : State}

theorem alike_ok (h : s.sameFrame s') (a : α) : Alike (.ok (a, s)) (.ok (a, s')) := by
  intro b t ht
  obtain ⟨rfl, rfl⟩ := Prod.mk.inj (Except.ok.inj ht)
  exact ⟨s', rfl, h⟩

theorem Alike.bind {x y : Except Refusal (α × State)} {f g : α × State → Except Refusal (β × State)} (h : Alike x y)
    (hfg : ∀ a t t', t.sameFrame t' → Alike (f (a, t)) (g (a, t'))) : Alike (x >>= f) (y >>= g) := by
  intro b u hu
  obtain ⟨⟨a, t⟩, ht, hu⟩ := bind_ok.mp hu
  obtain ⟨t', ht', hsame⟩ := h a t ht
  obtain ⟨u', hu', hsame'⟩ := hfg a t t' hsame b u hu
  exact ⟨u', bind_ok.mpr ⟨(a, t'), ht', hu'⟩, hsame'⟩

/-- RLD.READ looks at the stream, and moves the decoder only. -/
theorem alike_rldRead (h : s.sameFrame s') : Alike (rldRead s) (rldRead s') := by
  intro v t hread
  obtain ⟨v', ro, rr, hread', hsame⟩ := exec_rldRead_next (exec_rldRead_congr h.tosameStream hread)
  have hv : v = v' := Result.sample.inj (congrArg State.result hsame)
  have hro : t.decRo = ro := congrArg State.decRo hsame
  have hrr : t.decRr = rr := congrArg State.decRr hsame
  subst hv hro hrr
  refine ⟨_, hread', ?_⟩
  rw [rldRead_frame hread]
  exact ⟨⟨rfl, rfl, h.len, h.comp, h.config⟩, h.std, h.bi, h.rgbaOut⟩

/-- Four reads, one after the other, as long as each delivers. -/
theorem alike_readFour (h : s.sameFrame s') : Alike (readFour s) (readFour s') := by
  refine (alike_rldRead h).bind fun v1 a a' ha => ?_
  cases v1 with
  | none => exact alike_ok ha none
  | some w0 =>
  refine (alike_rldRead ha).bind fun v2 b b' hb => ?_
  cases v2 with
  | none => exact alike_ok hb none
  | some w1 =>
  refine (alike_rldRead hb).bind fun v3 c c' hc => ?_
  cases v3 with
  | none => exact alike_ok hc none
  | some w2 =>
  refine (alike_rldRead hc).bind fun v4 d d' hd => ?_
  cases v4 with
  | none => exact alike_ok hd none
  | some w3 => exact alike_ok hd _

/-- A write to RGBA_OUT, and the batch counted. -/
theorem memWrite_sameFrame {t : State} {off : Nat} {bytes : List Byte} (h : s.sameFrame s')
    (hwrite : memWrite s .rgbaOut off bytes = .ok t) :
    ∃ t', memWrite s' .rgbaOut off bytes = .ok t' ∧
      (t.withPipeBi (t.pipeBi + 1)).sameFrame (t'.withPipeBi (t'.pipeBi + 1)) := by
  obtain ⟨hfits, rfl⟩ := memWrite_ok.mp hwrite
  rw [State.buffer_rgbaOut, h.rgbaOut] at hfits
  exact ⟨_, memWrite_ok.mpr ⟨hfits, rfl⟩, ⟨h.ro, h.rr, h.len, h.comp, h.config⟩, h.std, congrArg (· + 1) h.bi,
    congrArg (fun b => b.withMem (writeBytes b.mem off bytes)) h.rgbaOut⟩

theorem alike_decodeBatch (h : s.sameFrame s') : Alike (decodeBatch s) (decodeBatch s') := by
  refine (alike_readFour h).bind fun r a a' ha => ?_
  cases r with
  | none => exact alike_ok ha false
  | some w =>
    obtain ⟨w0, w1, w2, w3⟩ := w
    intro ok t ht
    obtain ⟨b, hb, ht⟩ := bind_ok.mp ht
    obtain ⟨rfl, rfl⟩ := Prod.mk.inj (Except.ok.inj ht)
    rw [ha.bi, ha.config, ha.std] at hb
    obtain ⟨b', hb', hsame⟩ := memWrite_sameFrame ha hb
    exact ⟨_, bind_ok.mpr ⟨b', hb', rfl⟩, hsame⟩

theorem alike_decodeBatches (n : Nat) (h : s.sameFrame s') : Alike (decodeBatches n s) (decodeBatches n s') := by
  induction n generalizing s s' with
  | zero => exact alike_ok h true
  | succ n ih =>
    refine (alike_decodeBatch h).bind fun ok a a' ha => ?_
    cases ok with
    | false => exact alike_ok ha false
    | true => exact ih ha

/-- Whatever stood in the registers, DECODE's set-up leaves the same frame (R256). -/
theorem sameFrame_decodeSetup (hcomp : s.comp.mem = s'.comp.mem) (hout : s.rgbaOut.mem = s'.rgbaOut.mem)
    (hconfig : s.config = s'.config) (h : Dim) (inLen outCap : Len) :
    (decodeSetup h inLen outCap s).sameFrame (decodeSetup h inLen outCap s') :=
  ⟨⟨rfl, rfl, rfl, congrArg (Buffer.mk inLen) hcomp, hconfig⟩, rfl, rfl, congrArg (Buffer.mk outCap) hout⟩

theorem decodeFrame_congr {w h : Dim} {inLen outCap : Len} {t : State} (hcomp : s.comp.mem = s'.comp.mem)
    (hout : s.rgbaOut.mem = s'.rgbaOut.mem) (hconfig : s.config = s'.config)
    (hframe : decodeFrame w h inLen outCap s = .ok t) :
    ∃ t', decodeFrame w h inLen outCap s' = .ok t' ∧
      t'.statusErr = t.statusErr ∧ t'.statusOutLen = t.statusOutLen ∧ t'.rgbaOut.mem = t.rgbaOut.mem := by
  obtain ⟨⟨ok, a⟩, hloop, hend⟩ := bind_ok.mp hframe
  obtain ⟨a', hloop', hsame⟩ :=
    alike_decodeBatches _ (sameFrame_decodeSetup hcomp hout hconfig h inLen outCap) ok a hloop
  have hmem : a'.rgbaOut.mem = a.rgbaOut.mem := congrArg Buffer.mem hsame.rgbaOut.symm
  cases ok <;>
  · obtain rfl := Except.ok.inj hend
    exact ⟨_, bind_ok.mpr ⟨_, hloop', rfl⟩, rfl, rfl, hmem⟩

end

/-- Settles O53: a failed check looks at the operands only, and after the checks it is `decodeFrame_congr`. -/
theorem decodeForgetsEarlierCalls : Obligations.DecodeForgetsEarlierCalls := by
  intro s s' t w h inLen outCap hcomp hout hconfig hexec
  cases hcheck : decodeCheck w h outCap with
  | some e =>
    rw [exec_decode_of_failed hcheck] at hexec
    obtain rfl := Host.Outcome.next.inj hexec
    exact ⟨_, exec_decode_of_failed hcheck, rfl, rfl, hout.symm⟩
  | none =>
    rw [exec_decode_of_passed hcheck] at hexec
    obtain ⟨t', hframe, hsame⟩ := decodeFrame_congr (s := s.startCall 0x51 w h inLen outCap)
      (s' := s'.startCall 0x51 w h inLen outCap) hcomp hout hconfig (outcomeOf_next.mp hexec)
    refine ⟨t', ?_, hsame⟩
    rw [exec_decode_of_passed hcheck, hframe, outcomeOf_ok]

/-! ## Frames of zero pixels -/

theorem frameBytes_of_empty {w h : Dim} (hempty : w = 0 ∨ h = 0) : frameBytes w h = 0 := by
  unfold frameBytes
  obtain rfl | rfl := hempty <;> simp

/-- Settles O51: the frame has no bytes, so a call that passes its checks writes none (R260). -/
theorem emptyFramesSucceed : Obligations.EmptyFramesSucceed := by
  intro s w h inLen outCap hw hempty
  have hn := frameBytes_of_empty hempty
  have hzero : (0 : Len).toNat = frameBytes w h := hn.symm
  have hne : ∀ n : Len, n ≠ 0 → n.toNat ≠ frameBytes w h :=
    fun n hne hlen => hne (BitVec.eq_of_toNat_eq (hlen.trans hzero.symm))
  refine ⟨?encode, fun hin => ?encodeFails, ?decode, fun hcap => ?decodeFails⟩
  case encode =>
    obtain ⟨lw, hexec⟩ := exec_encode_of_good (s := s) (outCap := outCap) hw hzero (by omega)
    have hstream : s.frameStream h (frameBytes w h) = [] := by rw [hn]; rfl
    refine ⟨_, hexec, rfl, ?_, ?_⟩
    · rw [State.encoded_statusOutLen, hstream]
      rfl
    · rw [State.encoded_comp_mem, hstream]
      rfl
  case encodeFails => exact ⟨_, exec_encode_of_failed (encodeCheck_inLen hw (hne _ hin)), rfl⟩
  case decode =>
    exact ⟨_, exec_decode_of_reads (words := []) hw hzero (by rw [hn]; rfl), rfl, rfl, rfl, rfl⟩
  case decodeFails => exact ⟨_, exec_decode_of_failed (decodeCheck_outCap hw (hne _ hcap)), rfl⟩

end Sys2Proof.Machine

/-! ## The failures of the calls

Each check of ENCODE and DECODE has its own descriptors and its own code (R281, R282, R285), and a call that passes them
ends with a code that no check gives: 0, or 3 from DECODE's loop. So STATUS.ERR tells which check failed. -/

namespace Sys2Proof.Machine

/-! ### Which check fails -/

section
variable {w h : Dim} {inLen outCap : Len}

theorem encodeCheck_invalidDimensions :
    encodeCheck w h inLen outCap = some .invalidDimensions ↔ w.toNat % 8 ≠ 0 := by
  unfold encodeCheck
  split
  next hw => exact iff_of_true rfl hw
  next hw => split_ifs <;> simpa using hw

/-- ENCODE compares the lengths only for a good width (R285). -/
theorem encodeCheck_bufferLengthMismatch :
    encodeCheck w h inLen outCap = some .bufferLengthMismatch ↔
      w.toNat % 8 = 0 ∧ (inLen.toNat ≠ frameBytes w h ∨ outCap.toNat < frameBytes w h) := by
  unfold encodeCheck
  split
  next hw => exact iff_of_false nofun fun hbad => hw hbad.1
  next hw =>
    have hw := not_not.mp hw
    split_ifs with hin hcap
    · exact iff_of_true rfl ⟨hw, .inl hin⟩
    · exact iff_of_true rfl ⟨hw, .inr hcap⟩
    · exact iff_of_false nofun fun hbad => hbad.2.elim hin hcap

theorem decodeCheck_invalidDimensions : decodeCheck w h outCap = some .invalidDimensions ↔ w.toNat % 8 ≠ 0 := by
  unfold decodeCheck
  split
  next hw => exact iff_of_true rfl hw
  next hw => split_ifs <;> simpa using hw

/-- DECODE compares the lengths only for a good width (R285). -/
theorem decodeCheck_bufferLengthMismatch :
    decodeCheck w h outCap = some .bufferLengthMismatch ↔ w.toNat % 8 = 0 ∧ outCap.toNat ≠ frameBytes w h := by
  unfold decodeCheck
  split
  next hw => exact iff_of_false nofun fun hbad => hw hbad.1
  next hw =>
    have hw := not_not.mp hw
    split_ifs with hcap
    · exact iff_of_true rfl ⟨hw, hcap⟩
    · exact iff_of_false nofun fun hbad => hcap hbad.2

end

/-! ### What STATUS.ERR tells of the checks -/

theorem failureCode_injective : Function.Injective failureCode := by
  intro a b
  cases a <;> cases b <;> decide

theorem failureCode_ne_zero (e : Failure) : failureCode e ≠ 0 := by cases e <;> decide

section
variable {s t : State} {w h : Dim} {inLen outCap : Len} {e : Failure}

/-- Behind its checks ENCODE cannot fail (R253). -/
theorem encodeFrame_statusErr (hframe : encodeFrame w h inLen outCap s = .ok t) : t.statusErr = 0 := by
  rw [(encodeFrame_frame hframe).1]
  rfl

/-- Behind its checks DECODE fails only at the end of its stream (R258). -/
theorem decodeFrame_statusErr (hframe : decodeFrame w h inLen outCap s = .ok t) :
    t.statusErr = 0 ∨ t.statusErr = failureCode .insufficientCompressedData := by
  obtain ⟨⟨ok, a⟩, _, hend⟩ := bind_ok.mp hframe
  cases ok with
  | false => exact .inr (Except.ok.inj hend ▸ rfl)
  | true => exact .inl (Except.ok.inj hend ▸ rfl)

/-- Where ENCODE ends with a failure's code, that failure is the answer of its checks. -/
theorem encodeCheck_of_statusErr (hexec : exec (.encode w h inLen outCap) s = .next t)
    (herr : t.statusErr = failureCode e) : encodeCheck w h inLen outCap = some e := by
  cases hcheck : encodeCheck w h inLen outCap with
  | some e' =>
    rw [exec_encode_of_failed hcheck] at hexec
    obtain rfl := Host.Outcome.next.inj hexec
    rw [failureCode_injective herr]
  | none =>
    rw [exec_encode_of_passed hcheck] at hexec
    have hzero := encodeFrame_statusErr (outcomeOf_next.mp hexec)
    exact absurd (herr.symm.trans hzero) (failureCode_ne_zero e)

/-- Where DECODE ends with a failure's code other than that of its loop, that failure is the answer of its checks. -/
theorem decodeCheck_of_statusErr (hexec : exec (.decode w h inLen outCap) s = .next t)
    (herr : t.statusErr = failureCode e) (he : e ≠ .insufficientCompressedData) : decodeCheck w h outCap = some e := by
  cases hcheck : decodeCheck w h outCap with
  | some e' =>
    rw [exec_decode_of_failed hcheck] at hexec
    obtain rfl := Host.Outcome.next.inj hexec
    rw [failureCode_injective herr]
  | none =>
    rw [exec_decode_of_passed hcheck] at hexec
    obtain hzero | hloop := decodeFrame_statusErr (outcomeOf_next.mp hexec)
    · exact absurd (herr.symm.trans hzero) (failureCode_ne_zero e)
    · exact absurd (failureCode_injective (herr.symm.trans hloop)) he

end

/-- Settles O43: a failed check leaves the descriptor and STATUS only, and the code of STATUS.ERR names the check. -/
theorem badDescriptorsFailBeforeAnyAccess : Obligations.BadDescriptorsFailBeforeAnyAccess := by
  intro s w h inLen outCap called n
  refine ⟨fun hw => ⟨?encodeWidth, ?decodeWidth⟩, fun hw hlen => ?encodeLength, fun hw hcap => ?decodeLength,
    fun t hexec => ⟨fun herr => ?encodeOne, fun herr => ?encodeTwo⟩,
    fun t hexec => ⟨fun herr => ?decodeOne, fun herr => ?decodeTwo⟩⟩
  case encodeWidth => exact ⟨_, exec_encode_of_failed (encodeCheck_invalidDimensions.mpr hw)⟩
  case decodeWidth => exact ⟨_, exec_decode_of_failed (decodeCheck_invalidDimensions.mpr hw)⟩
  case encodeLength => exact ⟨_, exec_encode_of_failed (encodeCheck_bufferLengthMismatch.mpr ⟨hw, hlen⟩)⟩
  case decodeLength => exact ⟨_, exec_decode_of_failed (decodeCheck_bufferLengthMismatch.mpr ⟨hw, hcap⟩)⟩
  case encodeOne => exact encodeCheck_invalidDimensions.mp (encodeCheck_of_statusErr hexec herr)
  case encodeTwo => exact (encodeCheck_bufferLengthMismatch.mp (encodeCheck_of_statusErr hexec herr)).2
  case decodeOne => exact decodeCheck_invalidDimensions.mp (decodeCheck_of_statusErr hexec herr nofun)
  case decodeTwo => exact (decodeCheck_bufferLengthMismatch.mp (decodeCheck_of_statusErr hexec herr nofun)).2

end Sys2Proof.Machine

/-! ## The mark of an ended stream

RLE.FINISH and ENCODE set the mark and RLE.INIT clears it (R193, R190, R321; log entry 9), read off `Writes`. -/

namespace Sys2Proof.Machine

section
variable {s t : State}

/-- RLE.PUSH looks at the mark before it looks at the word (R321; spec/93 U4). -/
theorem exec_rlePush_of_ended (word : Word64) (hended : s.encFinished = true) :
    exec (.rlePush word) s = .refused .pushAfterFinish := by
  show execRlePush word s = _
  rw [execRlePush, if_pos hended]

theorem encFinished_of_rleFinish (hw : Writes s .rleFinish t) : t.encFinished = true := by
  cases hw with
  | rleFinish => rfl
  | answer hanswers => nomatch hanswers

theorem encFinished_of_rleInit (hw : Writes s .rleInit t) : t.encFinished = false := by
  cases hw with
  | rleInit => rfl
  | answer hanswers => nomatch hanswers

/-- ENCODE ends its stream with RLE.FINISH, unless a check fails and no stream is begun (R253, R286). -/
theorem encFinished_of_encode {w h : Dim} {n c : Len} (hw : Writes s (.encode w h n c) t) :
    t.encFinished = s.encFinished ∨ t.encFinished = true := by
  cases hw with
  | encode => exact .inr rfl
  | encodeFailed => exact .inl rfl
  | answer hanswers => nomatch hanswers

/-- The mark has no other writer. -/
theorem writers_of_encFinished {i : Instr} (hw : Writes s i t) (hne : t.encFinished ≠ s.encFinished) :
    i = .rleFinish ∨ i = .rleInit ∨ (∃ w h n c, i = .encode w h n c) := by
  cases hw with
  | rleFinish => exact .inl rfl
  | rleInit => exact .inr (.inl rfl)
  | encode => exact .inr (.inr ⟨_, _, _, _, rfl⟩)
  | answer | profileSel | rlePush | rleFlush | rldInit | rldRead | lit | run | decode
  | encodeFailed | decodeFailed =>
    exact absurd rfl hne

end

/-- Settles O32: the refusal from RLE.PUSH itself, what becomes of the mark from `Writes`, writer by writer. -/
theorem pushAfterFinishIsRefused : Obligations.PushAfterFinishIsRefused := by
  refine ⟨fun s word hended => exec_rlePush_of_ended word hended, fun i s t he => ?_⟩
  have hw := exec_writes he
  refine ⟨?finish, ?init, ?encode, fun hfinish hinit hencode => ?others⟩
  case finish => rintro rfl; exact encFinished_of_rleFinish hw
  case init => rintro rfl; exact encFinished_of_rleInit hw
  case encode => rintro ⟨w, h, n, c, rfl⟩; exact encFinished_of_encode hw
  case others =>
    by_contra hne
    obtain rfl | rfl | ⟨w, h, n, c, rfl⟩ := writers_of_encFinished hw hne
    · exact hfinish rfl
    · exact hinit rfl
    · exact hencode w h n c rfl

end Sys2Proof.Machine
